-- ==== Sys2Proof/Word.lean ====
section
/-! DEFINITION. The words of FX16CVT: the command byte, the 32-bit fixed-point word and the 64-bit buses. -/

namespace Sys2Proof

/-- A command byte `req_cmd[7:0]` (R37). -/
abbrev Byte := BitVec 8

/-- A fixed-point value: the 32-bit vector `raw`, every pattern of which is a value (R13). -/
abbrev Raw := BitVec 32

/-- The operand bus `req_src` and the result bus `rsp_dst`, bit 0 the least significant (R7, R19). -/
abbrev Bus := BitVec 64

end Sys2Proof
end

