-- ==== Sys2Proof/Syntax.lean ====
section
/-! DEFINITION. The commands of FX16CVT, one constructor for each row of spec/opcode_table.json, and the type tokens of R39. -/

namespace Sys2Proof

/-- The sixteen values of the field `TYPE` (R39), in the order of their numbers 0 to 15. -/
inductive TypeToken where
  | null | bool | i8 | u8 | i16 | u16 | i32 | u32 | i64 | u64 | f16 | f32 | f64 | dec | str | reserved15
  deriving DecidableEq, Repr

/-- A command (R50). The rows whose byte has bits the table leaves open (`RSV != 000`) carry the byte they were read from;
`Instr.wellFormed` says which bytes each admits. -/
inductive Instr where
  -- construction, DIR = 0 (R38, R39)
  | fromNull | fromBool
  | fromI8 | fromU8 | fromI16 | fromU16 | fromI32 | fromU32 | fromI64 | fromU64
  | fromF16 | fromF32 | fromF64
  | fromDec
  -- extraction, DIR = 1
  | toNull | toBool
  | toI8 | toU8 | toI16 | toU16 | toI32 | toU32 | toI64 | toU64
  | toF16 | toF32 | toF64
  | toDec | toStr
  -- reserved bytes (R40, R51 (b), R107)
  | reserved0E | reserved0F | reserved1F
  | reservedRsv1 (cmd : Byte)
  | reservedRsv01 (cmd : Byte)
  | reservedRsv001 (cmd : Byte)
  deriving DecidableEq, Repr

end Sys2Proof
end

