-- ==== Sys2Proof/WellFormed.lean ====
section
/-! DEFINITION. Which terms of `Instr` stand for a command byte: the bytes carried by the three reserved rows with open bits
have the fixed bits of their row. -/

namespace Sys2Proof

/-- The byte a reserved row carries has that row's fixed bits: `1xxxxxxx`, `01xxxxxx`, `001xxxxx` (opcode_table.json, R40).
Every other constructor stands for exactly one byte. -/
def Instr.wellFormed : Instr → Bool
  | .reservedRsv1 cmd => cmd.extractLsb' 7 1 == 1#1
  | .reservedRsv01 cmd => cmd.extractLsb' 6 2 == 1#2
  | .reservedRsv001 cmd => cmd.extractLsb' 5 3 == 1#3
  | .fromNull | .fromBool | .fromI8 | .fromU8 | .fromI16 | .fromU16 | .fromI32 | .fromU32 | .fromI64 | .fromU64
  | .fromF16 | .fromF32 | .fromF64 | .fromDec
  | .toNull | .toBool | .toI8 | .toU8 | .toI16 | .toU16 | .toI32 | .toU32 | .toI64 | .toU64
  | .toF16 | .toF32 | .toF64 | .toDec | .toStr
  | .reserved0E | .reserved0F | .reserved1F => true

end Sys2Proof
end

