-- ==== Sys2Proof/Decode.lean ====
section
/-! DEFINITION. The decoder, total on all 256 command bytes (R53), and after it the encoder, both from the field layout and
the token table of 30_encoding.md. -/

namespace Sys2Proof

/-- `RSV = cmd[7:5]` (R37). -/
def cmdRsv (cmd : Byte) : BitVec 3 := cmd.extractLsb' 5 3

/-- `DIR = cmd[4]` (R37, R38). -/
def cmdDir (cmd : Byte) : Bool := cmd.getLsbD 4

/-- `TYPE = cmd[3:0]` (R37, R39). -/
def cmdType (cmd : Byte) : BitVec 4 := cmd.extractLsb' 0 4

/-- The token a value of the 4-bit field `TYPE` names (R39); 15 is the last value the field has. -/
def TypeToken.ofBits (t : BitVec 4) : TypeToken :=
  match t.toNat with
  | 0 => .null
  | 1 => .bool
  | 2 => .i8
  | 3 => .u8
  | 4 => .i16
  | 5 => .u16
  | 6 => .i32
  | 7 => .u32
  | 8 => .i64
  | 9 => .u64
  | 10 => .f16
  | 11 => .f32
  | 12 => .f64
  | 13 => .dec
  | 14 => .str
  | _ => .reserved15

/-- The number of a token (R39). -/
def TypeToken.bits : TypeToken → BitVec 4
  | .null => 0
  | .bool => 1
  | .i8 => 2
  | .u8 => 3
  | .i16 => 4
  | .u16 => 5
  | .i32 => 6
  | .u32 => 7
  | .i64 => 8
  | .u64 => 9
  | .f16 => 10
  | .f32 => 11
  | .f64 => 12
  | .dec => 13
  | .str => 14
  | .reserved15 => 15

/-- The `DIR = 0` column of R39. -/
def decodeFrom : TypeToken → Instr
  | .null => .fromNull
  | .bool => .fromBool
  | .i8 => .fromI8
  | .u8 => .fromU8
  | .i16 => .fromI16
  | .u16 => .fromU16
  | .i32 => .fromI32
  | .u32 => .fromU32
  | .i64 => .fromI64
  | .u64 => .fromU64
  | .f16 => .fromF16
  | .f32 => .fromF32
  | .f64 => .fromF64
  | .dec => .fromDec
  | .str => .reserved0E
  | .reserved15 => .reserved0F

/-- The `DIR = 1` column of R39. -/
def decodeTo : TypeToken → Instr
  | .null => .toNull
  | .bool => .toBool
  | .i8 => .toI8
  | .u8 => .toU8
  | .i16 => .toI16
  | .u16 => .toU16
  | .i32 => .toI32
  | .u32 => .toU32
  | .i64 => .toI64
  | .u64 => .toU64
  | .f16 => .toF16
  | .f32 => .toF32
  | .f64 => .toF64
  | .dec => .toDec
  | .str => .toStr
  | .reserved15 => .reserved1F

/-- The row of a byte with `RSV != 000`, by its highest 1 bit (opcode_table.json). -/
def decodeReserved (cmd : Byte) : Instr :=
  if cmd.getLsbD 7 then .reservedRsv1 cmd
  else if cmd.getLsbD 6 then .reservedRsv01 cmd
  else .reservedRsv001 cmd

/-- The command a byte is, for each of the 256 bytes; the `RSV` test comes first (R53, R118). -/
def decodeByte (cmd : Byte) : Instr :=
  if cmdRsv cmd = 0 then
    if cmdDir cmd then decodeTo (TypeToken.ofBits (cmdType cmd)) else decodeFrom (TypeToken.ofBits (cmdType cmd))
  else decodeReserved cmd

/-- Why a list of bytes is no command: there is no byte. No byte is refused (R21, R51). -/
inductive DecodeError where
  | noCommandByte
  deriving DecidableEq, Repr

/-- The command the first byte is, with the bytes after it: exactly one byte is consumed (R37, R52). -/
def decode : List Byte → Except DecodeError (Instr × List Byte)
  | [] => .error .noCommandByte
  | cmd :: rest => .ok (decodeByte cmd, rest)

/-- The byte with `RSV = 000` of a direction and a token (R37). -/
def commandByte (dir : Bool) (t : TypeToken) : Byte := 0#3 ++ (BitVec.ofBool dir ++ t.bits)

/-- The byte of a command (R39, R50); a reserved row with open bits has the byte it carries. -/
def encodeByte : Instr → Byte
  | .fromNull => commandByte false .null
  | .fromBool => commandByte false .bool
  | .fromI8 => commandByte false .i8
  | .fromU8 => commandByte false .u8
  | .fromI16 => commandByte false .i16
  | .fromU16 => commandByte false .u16
  | .fromI32 => commandByte false .i32
  | .fromU32 => commandByte false .u32
  | .fromI64 => commandByte false .i64
  | .fromU64 => commandByte false .u64
  | .fromF16 => commandByte false .f16
  | .fromF32 => commandByte false .f32
  | .fromF64 => commandByte false .f64
  | .fromDec => commandByte false .dec
  | .reserved0E => commandByte false .str
  | .reserved0F => commandByte false .reserved15
  | .toNull => commandByte true .null
  | .toBool => commandByte true .bool
  | .toI8 => commandByte true .i8
  | .toU8 => commandByte true .u8
  | .toI16 => commandByte true .i16
  | .toU16 => commandByte true .u16
  | .toI32 => commandByte true .i32
  | .toU32 => commandByte true .u32
  | .toI64 => commandByte true .i64
  | .toU64 => commandByte true .u64
  | .toF16 => commandByte true .f16
  | .toF32 => commandByte true .f32
  | .toF64 => commandByte true .f64
  | .toDec => commandByte true .dec
  | .toStr => commandByte true .str
  | .reserved1F => commandByte true .reserved15
  | .reservedRsv1 cmd => cmd
  | .reservedRsv01 cmd => cmd
  | .reservedRsv001 cmd => cmd

/-- The bytes of a command: always one (R37, R52). -/
def encode (i : Instr) : List Byte := [encodeByte i]

/-- The command the decoder reads from a row's bits, numbered as opcode_table.json numbers them: a command is the one byte
`w`, so only `nbits = 8` is one. -/
def decodeTableWord (nbits w : Nat) : Option Instr :=
  if nbits = 8 then
    match decode [BitVec.ofNat 8 w] with
    | .ok (i, _) => some i
    | .error _ => none
  else none

end Sys2Proof
end

