-- ==== Sys2Proof/Config.lean ====
section
/-! DEFINITION. What an instance of FX16CVT fixes: the constants of R5, the parameters of R6, and the one value the spec
leaves free, `OOR_RAW` (R73), as a constant with no body. -/

namespace Sys2Proof

/-- The two legal values of `INT_PART_MODE` (R6, R80). -/
inductive IntPartMode where
  | truncTowardZero
  | floor
  deriving DecidableEq, Repr

/-- The three float formats `f16`, `f32`, `f64` (R45 to R48). -/
inductive FloatFormat where
  | f16
  | f32
  | f64
  deriving DecidableEq, Repr

namespace Config

/-- `SCALE = 65536 = 2^16`, the scale factor (R5). -/
def scale : Nat := 65536

/-- `RAW_MIN` (R5). -/
def rawMin : Int := -2147483648

/-- `RAW_MAX` (R5). -/
def rawMax : Int := 2147483647

/-- `INT_PART_MODE` of the instance the spec describes (R6; log 4). -/
def intPartMode : IntPartMode := .truncTowardZero

/-- `OOR_RAW(F, x)`: the `raw` a float construction answers when the boundary guard fires, of the format and the operand bits
(zero-extended to the bus) alone. FREE VALUE: it has no body, so nothing is known of it (R6, R73, D13; log 2). -/
opaque oorRaw : FloatFormat → Bus → Raw

/-- `DEPTH - 1` of the instance right after reset. FREE VALUE: the spec gives `DEPTH` no value but `DEPTH >= 1`
(R6, R20; log 3). -/
opaque depthMinusOne : Nat

/-- `DEPTH`, the most commands in flight, of the instance right after reset: at least 1, otherwise open (R6, R20; log 3). -/
def depth : Nat := depthMinusOne + 1

end Config

end Sys2Proof
end

