-- ==== Sys2Proof/Machine/Numeric.lean ====
section
/-! DEFINITION. The primitives of R8 and R9 on integers and exact rationals, and the data type `FixedPoint16` (R13 to R17). -/

namespace Sys2Proof.Machine

open Sys2Proof

/-- `low_n(k)`: the `n`-bit vector `v` with `u(v) = k mod 2^n` (R8). -/
def lowBits (n : Nat) (k : Int) : BitVec n := BitVec.ofInt n k

/-- `asr(k, n) = floor(k / 2^n)` (R8). -/
def asr (k : Int) (n : Nat) : Int := k / 2 ^ n

/-- `rne_shift(m, k)`: `m / 2^k` rounded to nearest, ties to even (R9). -/
def rneShift (m k : Nat) : Nat :=
  let q := m >>> k
  let rem := m % 2 ^ k
  let half := 2 ^ (k - 1)
  if half < rem ∨ (rem = half ∧ q % 2 = 1) then q + 1 else q

/-- `trunc(x)` (R9). -/
def truncRat (x : ℚ) : ℤ := if 0 ≤ x then ⌊x⌋ else ⌈x⌉

/-- `rne_int(x)`: the nearest integer, the even one of two equally near (R9). -/
def rneInt (x : ℚ) : ℤ :=
  let d := x - ⌊x⌋
  if d < 1 / 2 then ⌊x⌋
  else if 1 / 2 < d then ⌊x⌋ + 1
  else if ⌊x⌋ % 2 = 0 then ⌊x⌋ else ⌊x⌋ + 1

/-- `real(raw) = s(raw) / 65536`, the "scaled real value" as a real number (R9, R13, R17). -/
def real (raw : Raw) : ℚ := (raw.toInt : ℚ) / 65536

/-- The integer bits `raw[31:16]` (R14). -/
def intBits (raw : Raw) : BitVec 16 := raw.extractLsb' 16 16

/-- The fraction bits `raw[15:0]` (R14). -/
def fracBits (raw : Raw) : BitVec 16 := raw.extractLsb' 0 16

/-- Equality of the data type: the 32 bits are equal (R16). -/
def fixedEq (a b : Raw) : Bool := a == b

/-- Order of the data type: `s(a) < s(b)` (R16). -/
def fixedLt (a b : Raw) : Bool := decide (a.toInt < b.toInt)

/-- The integer part `ipart(raw)` in either mode (R80). -/
def ipart (mode : IntPartMode) (raw : Raw) : Int :=
  match mode with
  | .truncTowardZero => (intBits raw).toInt + (if raw.getLsbD 31 = true ∧ fracBits raw ≠ 0 then 1 else 0)
  | .floor => (intBits raw).toInt

end Sys2Proof.Machine
end

