-- ==== Sys2Proof/Machine/Floats.lean ====
section
/-! DEFINITION. The float formats of R45 to R48: widths, fields, classes, exact values, and putting a pattern together. -/

namespace Sys2Proof.Machine

open Sys2Proof

/-- The exponent width `ew` (R46 to R48). -/
def expWidth : FloatFormat → Nat
  | .f16 => 5
  | .f32 => 8
  | .f64 => 11

/-- The fraction width `fw` (R46 to R48). -/
def fracWidth : FloatFormat → Nat
  | .f16 => 10
  | .f32 => 23
  | .f64 => 52

/-- The total width `1 + ew + fw` (R45). -/
def floatWidth (f : FloatFormat) : Nat := 1 + expWidth f + fracWidth f

/-- `bias = 2^(ew-1) - 1` (R45). -/
def expBias (f : FloatFormat) : Int := 2 ^ (expWidth f - 1) - 1

/-- The smallest normal exponent, `emin = 1 - bias` (R93). -/
def expMin (f : FloatFormat) : Int := 1 - expBias f

/-- The field `S` of a pattern (R45). -/
def floatSign (f : FloatFormat) (x : BitVec (floatWidth f)) : Bool := x.getLsbD (expWidth f + fracWidth f)

/-- The field `E` of a pattern (R45). -/
def floatExp (f : FloatFormat) (x : BitVec (floatWidth f)) : Nat := (x.extractLsb' (fracWidth f) (expWidth f)).toNat

/-- The field `M` of a pattern (R45). -/
def floatFrac (f : FloatFormat) (x : BitVec (floatWidth f)) : Nat := (x.extractLsb' 0 (fracWidth f)).toNat

/-- The class of a pattern; a finite one has the value `(-1)^S * sig * 2^ex` (R49, R70). -/
inductive FloatClass where
  | nan
  | infinity (neg : Bool)
  | finite (neg : Bool) (sig : Nat) (ex : Int)
  deriving DecidableEq, Repr

/-- The class of a pattern by its fields (R49). Subnormals keep their true value (R70). -/
def classify (f : FloatFormat) (x : BitVec (floatWidth f)) : FloatClass :=
  let s := floatSign f x
  let e := floatExp f x
  let m := floatFrac f x
  if e = 2 ^ expWidth f - 1 then
    if m = 0 then .infinity s else .nan
  else if e = 0 then .finite s m (1 - expBias f - fracWidth f)
  else .finite s (2 ^ fracWidth f + m) (e - expBias f - fracWidth f)

/-- `fval`: the exact value of a finite pattern (R49). -/
def fval (f : FloatFormat) (x : BitVec (floatWidth f)) : Option ℚ :=
  match classify f x with
  | .nan => none
  | .infinity _ => none
  | .finite neg sig ex => some ((if neg then -1 else 1) * (sig : ℚ) * 2 ^ ex)

/-- The pattern `{S, E, M}` (R45, R93). -/
def packFloat (f : FloatFormat) (neg : Bool) (e m : Nat) : BitVec (floatWidth f) :=
  BitVec.ofNat (floatWidth f) ((if neg then 2 ^ (expWidth f + fracWidth f) else 0) + e * 2 ^ fracWidth f + m)

end Sys2Proof.Machine
end

