-- ==== Sys2Proof/Machine/State.lean ====
section
/-! DEFINITION. The state of FX16CVT as plain data, and the state right after reset. -/

namespace Sys2Proof.Machine

open Sys2Proof

/-- The status of a response (R113), by the spec's names; the codes are `Status.code`. -/
inductive Status where
  | ok
  | invalidArgument
  | invalidCast
  | unimplemented
  deriving DecidableEq, Repr

/-- An entry of `Q`: one request (R20). -/
structure Command where
  cmd : Byte
  src : Bus
  deriving DecidableEq, Repr

/-- A response: `rsp_dst`, `rsp_status`, `rsp_oor` (R56). -/
structure Response where
  dst    : Bus
  status : Status
  oor    : Bool
  deriving DecidableEq, Repr

/-- What holds at one clock edge that the block's state does not decide (R19, R130).
* `rst`: the reset input (R125).
* `req`: the request channel, `some ⟨req_cmd, req_src⟩` when `req_valid = 1`.
* `rspReady`: the host takes a response.
* `present`: the block has by this edge begun to present the response of its oldest entry; the spec bounds no time for
  this, so it is a free choice (R23, R134; log 5). -/
structure Edge where
  rst      : Bool
  req      : Option Command
  rspReady : Bool
  present  : Bool
  deriving DecidableEq, Repr

/-- The state. `queue` and `presenting` are the block's (R20, R23); `intPartMode` and `depth` are the instance's parameters
(R6); `waiting`, `accepted`, `delivered` and `edges` are the model's, for the environment (log 6, 7, 8). -/
structure State where
  /-- `INT_PART_MODE` (R6, R80), fixed for the instance. -/
  intPartMode : IntPartMode
  /-- `DEPTH` (R6, R20), fixed for the instance. -/
  depth : Nat
  /-- `Q`: the commands in flight, oldest first (R20). -/
  queue : List Command
  /-- `rsp_valid`: the response of the oldest entry is being presented and not yet taken (R23). -/
  presenting : Bool
  /-- The request that stood at the port at the last edge, a reset edge included, and was not accepted (R24 (a); log 6). -/
  waiting : Option Command
  /-- Record: the commands accepted since the last reset, oldest first (R34). -/
  accepted : List Command
  /-- Record: the responses delivered since the last reset, oldest first (R34, R133). -/
  delivered : List Response
  /-- The environment's inputs at the clock edges to come, the next first (R130). -/
  edges : List Edge
  deriving DecidableEq, Repr

/-- Why the machine stops with a fault. -/
inductive Fault where
  /-- A meaning was asked to respond while `Q` is empty, where the step `respond` is not enabled (R22). Raised by
  `respondWith`; `step` never raises it, for it runs a meaning only on a non-empty `Q`. Safe. -/
  | noCommandInFlight
  deriving DecidableEq, Repr

/-- Why the model gives no next state. -/
inductive Refusal where
  /-- The host changed or withdrew a request that was waiting at the port, at any edge, which puts it outside the spec
  (R24 (a), U10).
  Raised by `clockEdge`. Safe. -/
  | requestNotHeld
  /-- An instruction with no meaning yet: none. Safe. -/
  | notModelled (mnemonic : String)
  deriving DecidableEq, Repr

/-- Right after reset, `rst` back at 0: `Q` empty, nothing presented (R26, R126); the parameters as the instance has them
(log 3, 4); nothing waiting, nothing recorded, no input placed (log 6, 7, 8). -/
def State.reset : State where
  intPartMode := Config.intPartMode
  depth := Config.depth
  queue := []
  presenting := false
  waiting := none
  accepted := []
  delivered := []
  edges := []

end Sys2Proof.Machine
end

