-- ==== Sys2Proof/Machine/Operands.lean ====
section
/-! DEFINITION. Where an operand lies on `req_src` and a result on `rsp_dst` (R41 to R44). -/

namespace Sys2Proof.Machine

open Sys2Proof

/-- The operand of an `n`-bit type: `req_src[n-1:0]`, the bits above ignored (R41). -/
def operand (n : Nat) (src : Bus) : BitVec n := src.setWidth n

/-- The operand of every `to_<T>` command: `raw = req_src[31:0]` (R41). -/
def rawOperand (src : Bus) : Raw := operand 32 src

/-- A result of status `OK`: the value in the low bits of `rsp_dst`, zeros above, signed or not (R42). -/
def okResponse {n : Nat} (v : BitVec n) : Response := ⟨v.setWidth 64, .ok, false⟩

/-- The answer to a float operand out of range: `raw` zero-extended, status `OK`, `oor = 1` (R73). -/
def oorResponse (raw : Raw) : Response := ⟨raw.setWidth 64, .ok, true⟩

/-- `respond(0, status, 0)`: the answer to a command that is no conversion (R42, R113). It stands where other machines take
an exception (R120). -/
def errorResponse (status : Status) : Response := ⟨0, status, false⟩

/-- How many low bits of `req_src` a command reads: `width(T)` for `from_<T>`, 32 for `to_<T>`, none for the commands that
are no conversion (R31, R41). -/
def operandWidth : Instr → Nat
  | .fromBool => 1
  | .fromI8 => 8
  | .fromU8 => 8
  | .fromI16 => 16
  | .fromU16 => 16
  | .fromI32 => 32
  | .fromU32 => 32
  | .fromI64 => 64
  | .fromU64 => 64
  | .fromF16 => 16
  | .fromF32 => 32
  | .fromF64 => 64
  | .toBool | .toI8 | .toU8 | .toI16 | .toU16 | .toI32 | .toU32 | .toI64 | .toU64 | .toF16 | .toF32 | .toF64 => 32
  | .fromNull | .toNull | .fromDec | .toDec | .toStr | .reserved0E | .reserved0F | .reserved1F => 0
  | .reservedRsv1 _ => 0
  | .reservedRsv01 _ => 0
  | .reservedRsv001 _ => 0

/-- How many low bits of `rsp_dst` a command drives: 32 for `from_<T>`, `width(T)` for `to_<T>`, none for the commands that
are no conversion (R31, R42). -/
def resultWidth : Instr → Nat
  | .fromBool | .fromI8 | .fromU8 | .fromI16 | .fromU16 | .fromI32 | .fromU32 | .fromI64 | .fromU64
  | .fromF16 | .fromF32 | .fromF64 => 32
  | .toBool => 1
  | .toI8 => 8
  | .toU8 => 8
  | .toI16 => 16
  | .toU16 => 16
  | .toI32 => 32
  | .toU32 => 32
  | .toI64 => 64
  | .toU64 => 64
  | .toF16 => 16
  | .toF32 => 32
  | .toF64 => 64
  | .fromNull | .toNull | .fromDec | .toDec | .toStr | .reserved0E | .reserved0F | .reserved1F => 0
  | .reservedRsv1 _ => 0
  | .reservedRsv01 _ => 0
  | .reservedRsv001 _ => 0

end Sys2Proof.Machine
end

