-- ==== Sys2Proof/Machine/Ops.lean ====
section
/-! DEFINITION. The named operations over the state: the response transfer, the request transfer, reset, and the ports that
are functions of the state. There is no memory and no register file to have operations over (R18, R28). -/

namespace Sys2Proof.Machine

open Sys2Proof

/-- One response leaves: the oldest entry goes, the response is delivered, nothing is presented until the next entry's
response is (R22, R23). -/
def State.answered (s : State) (rest : List Command) (r : Response) : State :=
  { s with queue := rest, presenting := false, delivered := s.delivered ++ [r] }

/-- The step `respond` with a command's own response function (R22). On an empty `Q` the step is not enabled. -/
def respondWith (answer : Bus → Response) (s : State) : Host.Outcome State Fault Refusal :=
  match s.queue with
  | [] => .fault .noCommandInFlight
  | c :: rest => .next (s.answered rest (answer c.src))

/-- `Q` has room: `|Q| < DEPTH` (R21). -/
def State.hasRoom (s : State) : Bool := decide (s.queue.length < s.depth)

/-- The port `req_ready` while the reset input is `rst` (R19, R23, R128). -/
def State.reqReady (s : State) (rst : Bool) : Bool := s.hasRoom && !rst

/-- The port `rsp_valid` at an edge (R23, R128). -/
def State.rspValid (s : State) (e : Edge) : Bool := !s.queue.isEmpty && (s.presenting || e.present) && !e.rst

/-- The step `accept`: append at the young end, whatever the command (R21). -/
def State.accept (s : State) (c : Command) : State :=
  { s with queue := s.queue ++ [c], accepted := s.accepted ++ [c], waiting := none }

/-- The request channel at an edge, when `req_ready` was `ready`: a presented command is accepted or waits, for as long as
`req_ready` is 0, whether `Q` is full or `rst = 1` (R19, R24 (a), R128, R132). -/
def State.offer (s : State) (ready : Bool) (req : Option Command) : State :=
  match req with
  | none => { s with waiting := none }
  | some c => if ready then s.accept c else { s with waiting := some c }

/-- The step `reset`: everything in flight is dropped, the numbering of commands and responses starts again, the parameters
stay (R125 to R127; log 7). A request at the port is the host's and not in flight: it is left as it is (R24 (a); log 6). -/
def State.resetBlock (s : State) : State :=
  { s with queue := [], presenting := false, accepted := [], delivered := [] }

/-- The host keeps a waiting request unchanged (R24 (a)). -/
def State.requestHeld (s : State) (e : Edge) : Bool :=
  match s.waiting with
  | none => true
  | some c => decide (e.req = some c)

/-- A next state is carried on; a fault or a refusal stands. -/
def onNext (f : State → State) : Host.Outcome State Fault Refusal → Host.Outcome State Fault Refusal
  | .next s => .next (f s)
  | .fault r => .fault r
  | .refused r => .refused r

end Sys2Proof.Machine
end

