-- ==== Sys2Proof/Machine/FixedToFloat.lean ====
section
/-! DEFINITION. The fixed-to-float engine X2F (R92 to R100): the exact `raw / 65536` rounded once, to nearest with ties to
even, always `OK`. -/

namespace Sys2Proof.Machine

open Sys2Proof

/-- The significand kept of a magnitude whose highest 1 bit is bit `p`, before a carry out of the top is seen (R93). -/
def keptSignificand (f : FloatFormat) (mag p : Nat) : Nat :=
  if p ≤ fracWidth f then mag <<< (fracWidth f - p) else rneShift mag (p - fracWidth f)

/-- The pattern of a normal result with exponent `e` and kept significand `sig`; a carry out of the top moves the exponent
(R93). -/
def packNormal (f : FloatFormat) (neg : Bool) (e : Int) (sig : Nat) : BitVec (floatWidth f) :=
  if sig = 2 ^ (fracWidth f + 1) then packFloat f neg (e + 1 + expBias f).toNat 0
  else packFloat f neg (e + expBias f).toNat (sig - 2 ^ fracWidth f)

/-- The pattern of a format nearest to `real(raw)` (R93). Zero gives `+0` (R97). Subnormal results are exact (D28). -/
def toFloat (f : FloatFormat) (raw : Raw) : BitVec (floatWidth f) :=
  let n := raw.toInt
  if n = 0 then 0
  else
    let neg := decide (n < 0)
    let mag := n.natAbs
    let p := Nat.log2 mag
    let e := (p : Int) - 16
    if e < expMin f then packFloat f neg 0 (mag <<< ((fracWidth f : Int) - 16 - expMin f).toNat)
    else packNormal f neg e (keptSignificand f mag p)

/-- `to_f16` (R94). -/
def answerToF16 (src : Bus) : Response := okResponse (toFloat .f16 (rawOperand src))

/-- `to_f32` (R95). -/
def answerToF32 (src : Bus) : Response := okResponse (toFloat .f32 (rawOperand src))

/-- `to_f64`, the "scaled real value" as a double (R17, R96). -/
def answerToF64 (src : Bus) : Response := okResponse (toFloat .f64 (rawOperand src))

def execToF16 (s : State) : Host.Outcome State Fault Refusal := respondWith answerToF16 s
def execToF32 (s : State) : Host.Outcome State Fault Refusal := respondWith answerToF32 s
def execToF64 (s : State) : Host.Outcome State Fault Refusal := respondWith answerToF64 s

end Sys2Proof.Machine
end

