-- ==== Sys2Proof/Machine/FixedToInt.lean ====
section
/-! DEFINITION. The fixed-to-integer engine X2I (R79 to R91): the integer part in the instance's mode, then the low `N` bits,
always `OK`. -/

namespace Sys2Proof.Machine

open Sys2Proof

/-- The narrowing `low_N(ipart(raw))`, the same bits for the signed and the unsigned type (R81). -/
def toInteger (n : Nat) (mode : IntPartMode) (src : Bus) : Response := okResponse (lowBits n (ipart mode (rawOperand src)))

/-- `to_bool`: `raw != 0`, not a narrowing; the mode plays no part (R82). -/
def answerToBool (src : Bus) : Response := okResponse (BitVec.ofBool (rawOperand src != 0))

/-- `to_i8` (R83). -/
def answerToI8 (mode : IntPartMode) (src : Bus) : Response := toInteger 8 mode src

/-- `to_u8` (R84). -/
def answerToU8 (mode : IntPartMode) (src : Bus) : Response := toInteger 8 mode src

/-- `to_i16` (R85). -/
def answerToI16 (mode : IntPartMode) (src : Bus) : Response := toInteger 16 mode src

/-- `to_u16` (R86). -/
def answerToU16 (mode : IntPartMode) (src : Bus) : Response := toInteger 16 mode src

/-- `to_i32` (R87). -/
def answerToI32 (mode : IntPartMode) (src : Bus) : Response := toInteger 32 mode src

/-- `to_u32` (R88). -/
def answerToU32 (mode : IntPartMode) (src : Bus) : Response := toInteger 32 mode src

/-- `to_i64` (R89). -/
def answerToI64 (mode : IntPartMode) (src : Bus) : Response := toInteger 64 mode src

/-- `to_u64` (R90). -/
def answerToU64 (mode : IntPartMode) (src : Bus) : Response := toInteger 64 mode src

def execToBool (s : State) : Host.Outcome State Fault Refusal := respondWith answerToBool s
def execToI8 (s : State) : Host.Outcome State Fault Refusal := respondWith (answerToI8 s.intPartMode) s
def execToU8 (s : State) : Host.Outcome State Fault Refusal := respondWith (answerToU8 s.intPartMode) s
def execToI16 (s : State) : Host.Outcome State Fault Refusal := respondWith (answerToI16 s.intPartMode) s
def execToU16 (s : State) : Host.Outcome State Fault Refusal := respondWith (answerToU16 s.intPartMode) s
def execToI32 (s : State) : Host.Outcome State Fault Refusal := respondWith (answerToI32 s.intPartMode) s
def execToU32 (s : State) : Host.Outcome State Fault Refusal := respondWith (answerToU32 s.intPartMode) s
def execToI64 (s : State) : Host.Outcome State Fault Refusal := respondWith (answerToI64 s.intPartMode) s
def execToU64 (s : State) : Host.Outcome State Fault Refusal := respondWith (answerToU64 s.intPartMode) s

end Sys2Proof.Machine
end

