-- ==== Sys2Proof/Machine/Flags.lean ====
section
/-! DEFINITION. The block stores no flag (R18). What a response reports besides its data: the status code (R113) and the
out-of-range mark, which the boundary guard of F2X computes (R72). -/

namespace Sys2Proof.Machine

open Sys2Proof

/-- `rsp_status[1:0]` (R56, R113). -/
def Status.code : Status → BitVec 2
  | .ok => 0
  | .invalidArgument => 1
  | .invalidCast => 2
  | .unimplemented => 3

/-- `RAW_MIN <= n <= RAW_MAX`: a rounded integer that 32 signed bits hold (R5, R72). -/
def fitsRaw (n : Int) : Bool := decide (Config.rawMin ≤ n) && decide (n ≤ Config.rawMax)

/-- The boundary guard `oor` of R72, on the rounded scaled integer of a finite operand, or on none for a NaN or an
infinity. -/
def boundaryGuard : Option Int → Bool
  | none => true
  | some n => !fitsRaw n

end Sys2Proof.Machine
end

