-- ==== Sys2Proof/Machine/FloatToFixed.lean ====
section
/-! DEFINITION. The float-to-fixed engine F2X (R69 to R78): the exact product with 65536, rounded to nearest with ties to even,
and the boundary guard. -/

namespace Sys2Proof.Machine

open Sys2Proof

/-- `K`, the magnitude `sig * 2^(ex+16)` rounded (R71). Ties to even is the spec's decision D12 (log 10). -/
def scaledMagnitude (sig : Nat) (ex : Int) : Nat :=
  let sh := ex + 16
  if 0 ≤ sh then sig <<< sh.toNat else rneShift sig (-sh).toNat

/-- `n`, the rounded scaled integer of a finite operand; a NaN or an infinity has none (R71, R72). -/
def scaledInteger : FloatClass → Option Int
  | .nan => none
  | .infinity _ => none
  | .finite neg sig ex => some (if neg then -(scaledMagnitude sig ex : Int) else (scaledMagnitude sig ex : Int))

/-- The answer to a pattern of a format: `raw = low_32(n)` when `n` fits, else `OOR_RAW` of the operand with `oor = 1`
(R72, R73). -/
def fromFloat (f : FloatFormat) (x : BitVec (floatWidth f)) : Response :=
  let n := scaledInteger (classify f x)
  if boundaryGuard n then oorResponse (Config.oorRaw f (x.setWidth 64)) else okResponse (lowBits 32 (n.getD 0))

/-- `from_f16` (R74). -/
def answerFromF16 (src : Bus) : Response := fromFloat .f16 (operand (floatWidth .f16) src)

/-- `from_f32` (R75). -/
def answerFromF32 (src : Bus) : Response := fromFloat .f32 (operand (floatWidth .f32) src)

/-- `from_f64` (R76). -/
def answerFromF64 (src : Bus) : Response := fromFloat .f64 (operand (floatWidth .f64) src)

def execFromF16 (s : State) : Host.Outcome State Fault Refusal := respondWith answerFromF16 s
def execFromF32 (s : State) : Host.Outcome State Fault Refusal := respondWith answerFromF32 s
def execFromF64 (s : State) : Host.Outcome State Fault Refusal := respondWith answerFromF64 s

end Sys2Proof.Machine
end

