-- ==== Sys2Proof/Machine/IntToFixed.lean ====
section
/-! DEFINITION. The integer-to-fixed engine I2X (R57 to R68): `raw = low_32(value << 16)`, always `OK`. -/

namespace Sys2Proof.Machine

open Sys2Proof

/-- The family rule on the operand's integer value, of any size (R57). -/
def fromInteger (value : Int) : Response := okResponse (lowBits 32 (value * Config.scale))

/-- `from_bool`: bit 0 alone, `true` is 1 (R43, R59). -/
def answerFromBool (src : Bus) : Response := fromInteger (operand 1 src).toNat

/-- `from_i8` (R60). -/
def answerFromI8 (src : Bus) : Response := fromInteger (operand 8 src).toInt

/-- `from_u8` (R61). -/
def answerFromU8 (src : Bus) : Response := fromInteger (operand 8 src).toNat

/-- `from_i16` (R62). -/
def answerFromI16 (src : Bus) : Response := fromInteger (operand 16 src).toInt

/-- `from_u16`: values above 32767 wrap (R63). -/
def answerFromU16 (src : Bus) : Response := fromInteger (operand 16 src).toNat

/-- `from_i32` (R64). -/
def answerFromI32 (src : Bus) : Response := fromInteger (operand 32 src).toInt

/-- `from_u32` (R65). -/
def answerFromU32 (src : Bus) : Response := fromInteger (operand 32 src).toNat

/-- `from_i64`: wraps, the spec's decision D10, which the source asks to flag (R66, U1; log 9). -/
def answerFromI64 (src : Bus) : Response := fromInteger (operand 64 src).toInt

/-- `from_u64`: wraps, as `from_i64` (R67, U1; log 9). -/
def answerFromU64 (src : Bus) : Response := fromInteger (operand 64 src).toNat

def execFromBool (s : State) : Host.Outcome State Fault Refusal := respondWith answerFromBool s
def execFromI8 (s : State) : Host.Outcome State Fault Refusal := respondWith answerFromI8 s
def execFromU8 (s : State) : Host.Outcome State Fault Refusal := respondWith answerFromU8 s
def execFromI16 (s : State) : Host.Outcome State Fault Refusal := respondWith answerFromI16 s
def execFromU16 (s : State) : Host.Outcome State Fault Refusal := respondWith answerFromU16 s
def execFromI32 (s : State) : Host.Outcome State Fault Refusal := respondWith answerFromI32 s
def execFromU32 (s : State) : Host.Outcome State Fault Refusal := respondWith answerFromU32 s
def execFromI64 (s : State) : Host.Outcome State Fault Refusal := respondWith answerFromI64 s
def execFromU64 (s : State) : Host.Outcome State Fault Refusal := respondWith answerFromU64 s

end Sys2Proof.Machine
end

