-- ==== Sys2Proof/Machine/NonConversions.lean ====
section
/-! DEFINITION. The commands that are no conversion (44_dispatch.md): the absent token, the targets the hardware does not build,
the reserved bytes. Each is answered in its turn with an error status, and the block goes on (R120). -/

namespace Sys2Proof.Machine

open Sys2Proof

/-- The absent token, in either direction (R103, R104, R114). -/
def answerAbsent (_src : Bus) : Response := errorResponse .invalidArgument

/-- A target the hardware recognises and does not build (R105, R106, R116; log 13). -/
def answerUnbuilt (_src : Bus) : Response := errorResponse .unimplemented

/-- A reserved byte (R107, R115). -/
def answerReserved (_src : Bus) : Response := errorResponse .invalidCast

def execFromNull (s : State) : Host.Outcome State Fault Refusal := respondWith answerAbsent s
def execToNull (s : State) : Host.Outcome State Fault Refusal := respondWith answerAbsent s
def execFromDec (s : State) : Host.Outcome State Fault Refusal := respondWith answerUnbuilt s
def execToDec (s : State) : Host.Outcome State Fault Refusal := respondWith answerUnbuilt s
def execToStr (s : State) : Host.Outcome State Fault Refusal := respondWith answerUnbuilt s
def execReserved0E (s : State) : Host.Outcome State Fault Refusal := respondWith answerReserved s
def execReserved0F (s : State) : Host.Outcome State Fault Refusal := respondWith answerReserved s
def execReserved1F (s : State) : Host.Outcome State Fault Refusal := respondWith answerReserved s

/-- `1xxxxxxx`: the low bits play no part (R40, R118). -/
def execReservedRsv1 (_cmd : Byte) (s : State) : Host.Outcome State Fault Refusal := respondWith answerReserved s

/-- `01xxxxxx` (R40, R118). -/
def execReservedRsv01 (_cmd : Byte) (s : State) : Host.Outcome State Fault Refusal := respondWith answerReserved s

/-- `001xxxxx`, also with `TYPE = NULL` (R40, R118). -/
def execReservedRsv001 (_cmd : Byte) (s : State) : Host.Outcome State Fault Refusal := respondWith answerReserved s

end Sys2Proof.Machine
end

