-- ==== Sys2Proof/Machine/Dispatch.lean ====
section
/-! DEFINITION. One arm per command: the meaning of each row of the opcode table (R53). -/

namespace Sys2Proof.Machine

open Sys2Proof

def exec (i : Instr) (s : State) : Host.Outcome State Fault Refusal :=
  match i with
  | .fromNull => Sys2Proof.Machine.execFromNull s
  | .fromBool => Sys2Proof.Machine.execFromBool s
  | .fromI8 => Sys2Proof.Machine.execFromI8 s
  | .fromU8 => Sys2Proof.Machine.execFromU8 s
  | .fromI16 => Sys2Proof.Machine.execFromI16 s
  | .fromU16 => Sys2Proof.Machine.execFromU16 s
  | .fromI32 => Sys2Proof.Machine.execFromI32 s
  | .fromU32 => Sys2Proof.Machine.execFromU32 s
  | .fromI64 => Sys2Proof.Machine.execFromI64 s
  | .fromU64 => Sys2Proof.Machine.execFromU64 s
  | .fromF16 => Sys2Proof.Machine.execFromF16 s
  | .fromF32 => Sys2Proof.Machine.execFromF32 s
  | .fromF64 => Sys2Proof.Machine.execFromF64 s
  | .fromDec => Sys2Proof.Machine.execFromDec s
  | .toNull => Sys2Proof.Machine.execToNull s
  | .toBool => Sys2Proof.Machine.execToBool s
  | .toI8 => Sys2Proof.Machine.execToI8 s
  | .toU8 => Sys2Proof.Machine.execToU8 s
  | .toI16 => Sys2Proof.Machine.execToI16 s
  | .toU16 => Sys2Proof.Machine.execToU16 s
  | .toI32 => Sys2Proof.Machine.execToI32 s
  | .toU32 => Sys2Proof.Machine.execToU32 s
  | .toI64 => Sys2Proof.Machine.execToI64 s
  | .toU64 => Sys2Proof.Machine.execToU64 s
  | .toF16 => Sys2Proof.Machine.execToF16 s
  | .toF32 => Sys2Proof.Machine.execToF32 s
  | .toF64 => Sys2Proof.Machine.execToF64 s
  | .toDec => Sys2Proof.Machine.execToDec s
  | .toStr => Sys2Proof.Machine.execToStr s
  | .reserved0E => Sys2Proof.Machine.execReserved0E s
  | .reserved0F => Sys2Proof.Machine.execReserved0F s
  | .reserved1F => Sys2Proof.Machine.execReserved1F s
  | .reservedRsv1 cmd => Sys2Proof.Machine.execReservedRsv1 cmd s
  | .reservedRsv01 cmd => Sys2Proof.Machine.execReservedRsv01 cmd s
  | .reservedRsv001 cmd => Sys2Proof.Machine.execReservedRsv001 cmd s

end Sys2Proof.Machine
end

