-- ==== Sys2Proof/Machine/Clock.lean ====
section
/-! DEFINITION. One clock edge: reset, or the transfers of the two channels (R19, R125). -/

namespace Sys2Proof.Machine

open Sys2Proof

/-- The response channel at an edge with `rst = 0`: while `rsp_valid = 1` and the host is ready the oldest command is run and
its response leaves; while the host is not ready the response stays presented (R22, R23, R24 (b)). With `Q` empty there is
nothing to present. -/
def responseChannel (e : Edge) (s : State) : Host.Outcome State Fault Refusal :=
  match s.queue with
  | [] => .next { s with presenting := false }
  | c :: _ =>
    if s.presenting || e.present then
      if e.rspReady then exec (decodeByte c.cmd) s else .next { s with presenting := true }
    else .next s

/-- One clock edge, for a host that holds its waiting request, with `rst = 1` as with `rst = 0` (R24 (a), U10; log 6). Reset
takes the place of the response transfer (R125, R127); both channels move by their `valid` and `ready` as they stood before the
edge (R19; log 14), and with `rst = 1` `req_ready = 0`, so a request presented then is not accepted and waits (R127, R128). -/
def clockEdge (e : Edge) (s : State) : Host.Outcome State Fault Refusal :=
  if s.requestHeld e then
    onNext (fun t => t.offer (s.reqReady e.rst) e.req) (if e.rst then .next s.resetBlock else responseChannel e s)
  else .refused .requestNotHeld

/-- The next of the environment's clock edges; without one the block stays as it is (log 8). -/
def nextEdge (s : State) : Host.Outcome State Fault Refusal :=
  match s.edges with
  | [] => .next s
  | e :: rest => clockEdge e { s with edges := rest }

/-- The queue with the byte `w` as the command of its oldest entry, whose operand stays; on an empty queue the operand is 0. -/
def queueWithOldest (w : Byte) : List Command → List Command
  | [] => [⟨w, 0⟩]
  | c :: rest => ⟨w, c.src⟩ :: rest

/-- The edge at which the response of the oldest entry is taken and the request channel stays as it is (log 8). -/
def takeEdge (waiting : Option Command) : Edge := ⟨false, waiting, true, true⟩

end Sys2Proof.Machine
end

