-- ==== Sys2Proof/Machine/Step.lean ====
section
/-! DEFINITION. The step of the machine: one clock edge. -/

namespace Sys2Proof.Machine

open Sys2Proof

/-- One step. -/
def step (s : State) : Host.Outcome State Fault Refusal := nextEdge s

/-- `s` with the command of byte `w` as the oldest entry of `Q`, and as the next clock edge one at which the host takes its
response, so that `step` runs exactly this command. A command is one byte and nothing of it lies above its 8 bits; the host
presents commands, they are not fetched (R18 (d), R52; log 8). -/
def State.withFetchWord (s : State) (_nbits w : Nat) : State :=
  { s with
    queue := queueWithOldest (BitVec.ofNat 8 w) s.queue
    edges := takeEdge s.waiting :: s.edges }

end Sys2Proof.Machine
end

