-- ==== Sys2Proof/Machine/Respond.lean ====
section
/-! DEFINITION. `Exec`, the total function from a command to its response (R22, R53), the response ports (R23), and the aliases
of R55. -/

namespace Sys2Proof.Machine

open Sys2Proof

/-- The response of each command to an operand, in an integer-part mode: what its meaning delivers (R22). -/
def answerOf (mode : IntPartMode) : Instr → Bus → Response
  | .fromNull => answerAbsent
  | .fromBool => answerFromBool
  | .fromI8 => answerFromI8
  | .fromU8 => answerFromU8
  | .fromI16 => answerFromI16
  | .fromU16 => answerFromU16
  | .fromI32 => answerFromI32
  | .fromU32 => answerFromU32
  | .fromI64 => answerFromI64
  | .fromU64 => answerFromU64
  | .fromF16 => answerFromF16
  | .fromF32 => answerFromF32
  | .fromF64 => answerFromF64
  | .fromDec => answerUnbuilt
  | .toNull => answerAbsent
  | .toBool => answerToBool
  | .toI8 => answerToI8 mode
  | .toU8 => answerToU8 mode
  | .toI16 => answerToI16 mode
  | .toU16 => answerToU16 mode
  | .toI32 => answerToI32 mode
  | .toU32 => answerToU32 mode
  | .toI64 => answerToI64 mode
  | .toU64 => answerToU64 mode
  | .toF16 => answerToF16
  | .toF32 => answerToF32
  | .toF64 => answerToF64
  | .toDec => answerUnbuilt
  | .toStr => answerUnbuilt
  | .reserved0E => answerReserved
  | .reserved0F => answerReserved
  | .reserved1F => answerReserved
  | .reservedRsv1 _ => answerReserved
  | .reservedRsv01 _ => answerReserved
  | .reservedRsv001 _ => answerReserved

/-- `Exec(cmd, src)`: of the entry and the parameters `INT_PART_MODE` and `OOR_RAW` alone (R22, R53). -/
def execCommand (mode : IntPartMode) (c : Command) : Response := answerOf mode (decodeByte c.cmd) c.src

/-- The ports `rsp_dst`, `rsp_status`, `rsp_oor` at an edge: `Exec` of the oldest entry while `rsp_valid = 1`, and no value
while it is 0 (R23). -/
def State.rspOut (s : State) (e : Edge) : Option Response :=
  if s.rspValid e then s.queue.head?.map (execCommand s.intPartMode) else none

/-- The aliases and pseudo-commands of R55. -/
inductive Alias where
  | toDouble | toSingle | toHalf
  | fromDouble | fromSingle | fromHalf
  | toString
  | convertTo (token : TypeToken)
  deriving DecidableEq, Repr

/-- The byte of an alias: that of the command it names; `convert_to <TOKEN>` is `0x10 | TYPE` (R55). -/
def aliasByte : Alias → Byte
  | .toDouble => encodeByte .toF64
  | .toSingle => encodeByte .toF32
  | .toHalf => encodeByte .toF16
  | .fromDouble => encodeByte .fromF64
  | .fromSingle => encodeByte .fromF32
  | .fromHalf => encodeByte .fromF16
  | .toString => encodeByte .toStr
  | .convertTo token => 0x10#8 ||| token.bits.setWidth 8

/-- `convert_to(value, token)` through the decoder, which is the dispatcher (R102). -/
def convertTo (mode : IntPartMode) (token : TypeToken) (raw : Raw) : Response :=
  execCommand mode ⟨aliasByte (.convertTo token), raw.setWidth 64⟩

end Sys2Proof.Machine
end

