-- ==== Sys2Proof/Safety.lean ====
section
/-! DEFINITION. What the claims speak of: the invariant of the queue and the ports, the record of a run, and what it is for a
command to answer. -/

namespace Sys2Proof.Machine

open Sys2Proof

/-- `1 <= DEPTH`, `|Q| <= DEPTH`, and a response is presented only for an entry (R6, R20, R23). -/
def State.queueOk (s : State) : Prop :=
  1 ≤ s.depth ∧ s.queue.length ≤ s.depth ∧ (s.presenting = true → s.queue ≠ [])

/-- The commands accepted since reset are those answered, in order, followed by those in flight, and the responses delivered
are `Exec` of those answered, in order (R34, R133). -/
def State.inOrder (s : State) : Prop :=
  ∃ done : List Command, s.accepted = done ++ s.queue ∧ s.delivered = done.map (execCommand s.intPartMode)

/-- The byte `b` is the command `i`, and whenever the oldest entry of `Q` is `⟨c, src⟩`, `exec i` answers the next state in
which that entry is gone, `r` of the mode and the operand bus is the response delivered, nothing is presented, and nothing
else has changed. -/
def Answers (b : Byte) (i : Instr) (r : IntPartMode → Bus → Response) : Prop :=
  decodeByte b = i ∧
  ∀ (s : State) (c : Byte) (src : Bus) (rest : List Command), s.queue = ⟨c, src⟩ :: rest →
    exec i s = .next
      { intPartMode := s.intPartMode, depth := s.depth, queue := rest, presenting := false, waiting := s.waiting,
        accepted := s.accepted, delivered := s.delivered ++ [r s.intPartMode src], edges := s.edges }

/-- The construction command of a float format. -/
def fromFloatInstr : FloatFormat → Instr
  | .f16 => .fromF16
  | .f32 => .fromF32
  | .f64 => .fromF64

/-- The extraction command of a float format. -/
def toFloatInstr : FloatFormat → Instr
  | .f16 => .toF16
  | .f32 => .toF32
  | .f64 => .toF64

/-- The float constructions with their bytes (R39). -/
def fromFloatByte : FloatFormat → Byte
  | .f16 => 0x0A
  | .f32 => 0x0B
  | .f64 => 0x0C

/-- The float extractions with their bytes (R39). -/
def toFloatByte : FloatFormat → Byte
  | .f16 => 0x1A
  | .f32 => 0x1B
  | .f64 => 0x1C

/-- Each integer or Boolean construction with the integer its operand is: the signed or unsigned reading of the low
`width(T)` bits of the bus (R41, R43, R44, R57). -/
def integerSources : List (Instr × (Bus → Int)) :=
  [(.fromBool, fun src => ((src.extractLsb' 0 1).toNat : Int)),
   (.fromI8, fun src => (src.extractLsb' 0 8).toInt),
   (.fromU8, fun src => ((src.extractLsb' 0 8).toNat : Int)),
   (.fromI16, fun src => (src.extractLsb' 0 16).toInt),
   (.fromU16, fun src => ((src.extractLsb' 0 16).toNat : Int)),
   (.fromI32, fun src => (src.extractLsb' 0 32).toInt),
   (.fromU32, fun src => ((src.extractLsb' 0 32).toNat : Int)),
   (.fromI64, fun src => src.toInt),
   (.fromU64, fun src => (src.toNat : Int))]

/-- Construction, extraction and width of each integer type (R39). -/
def integerTypes : List (Instr × Instr × Nat) :=
  [(.fromI8, .toI8, 8), (.fromU8, .toU8, 8), (.fromI16, .toI16, 16), (.fromU16, .toU16, 16),
   (.fromI32, .toI32, 32), (.fromU32, .toU32, 32), (.fromI64, .toI64, 64), (.fromU64, .toU64, 64)]

/-- The integer part of `raw / 65536`: truncated toward zero, or its floor (R80). -/
def integerPart : IntPartMode → Raw → Int
  | .truncTowardZero, raw => truncRat (real raw)
  | .floor, raw => ⌊real raw⌋

/-- `raw = src[31:0]` (R41). -/
def rawOf (src : Bus) : Raw := src.extractLsb' 0 32

/-- `x` is the pattern of format `f` nearest to `real(raw)`: its value is at least as near as that of any other finite pattern,
and where another value is equally near the fraction field of `x` is even; for `raw = 0` it is `+0` (R92, R97). -/
def NearestEven (f : FloatFormat) (raw : Raw) (x : BitVec (floatWidth f)) : Prop :=
  (raw = 0 → x = 0) ∧
  ∃ v : ℚ, fval f x = some v ∧
    ∀ (y : BitVec (floatWidth f)) (w : ℚ), fval f y = some w →
      |v - real raw| ≤ |w - real raw| ∧
      (|v - real raw| = |w - real raw| → w ≠ v → floatFrac f x % 2 = 0)

/-- What R72 and R73 make of an exact operand value: the rounded scaled integer when it fits 32 signed bits, else the open
`OOR_RAW` with the mark set; a NaN or an infinity has no value. -/
def roundedResponse (f : FloatFormat) (x : BitVec (floatWidth f)) : Response :=
  match fval f x with
  | none => ⟨(Config.oorRaw f (x.setWidth 64)).setWidth 64, .ok, true⟩
  | some v =>
    if -2147483648 ≤ rneInt (v * 65536) ∧ rneInt (v * 65536) ≤ 2147483647 then
      ⟨(BitVec.ofInt 32 (rneInt (v * 65536))).setWidth 64, .ok, false⟩
    else ⟨(Config.oorRaw f (x.setWidth 64)).setWidth 64, .ok, true⟩

end Sys2Proof.Machine
end

