-- ==== Sys2Proof/Certificates/Slice0/Obligations.lean ====
section
/-! DEFINITION. What is to be proved of the model, each statement with the rule of spec/ it formalises. -/

open Sys2Proof Sys2Proof.Machine

/-! ### Encoding -/

/-- R50: the opcode map, byte by byte for `RSV = 000`; every byte from `0x20` on is one of the reserved rows. -/
def Obligations.OpcodeMap : Prop :=
  (List.range 32).map (fun b => decodeByte (BitVec.ofNat 8 b)) =
    [.fromNull, .fromBool, .fromI8, .fromU8, .fromI16, .fromU16, .fromI32, .fromU32, .fromI64, .fromU64,
     .fromF16, .fromF32, .fromF64, .fromDec, .reserved0E, .reserved0F,
     .toNull, .toBool, .toI8, .toU8, .toI16, .toU16, .toI32, .toU32, .toI64, .toU64,
     .toF16, .toF32, .toF64, .toDec, .toStr, .reserved1F] ∧
  ∀ b : Byte, 0x20 ≤ b.toNat →
    decodeByte b = .reservedRsv1 b ∨ decodeByte b = .reservedRsv01 b ∨ decodeByte b = .reservedRsv001 b

/-- Decode of encode is the identity on well-formed commands, with any bytes after it untouched, and every byte is the
encoding of the well-formed command it decodes to: no bit of the byte is dropped (R37, R39, R52, R53). -/
def Obligations.DecodeAndEncodeAgree : Prop :=
  (∀ (i : Instr) (rest : List Byte), i.wellFormed = true → decode (encode i ++ rest) = .ok (i, rest)) ∧
  ∀ b : Byte, (decodeByte b).wellFormed = true ∧ encode (decodeByte b) = [b]

/-- R55: an alias has the encoding of the command it names, and `convert_to <TOKEN>` is the extraction of that token. -/
def Obligations.AliasesNameCommands : Prop :=
  decodeByte (aliasByte .toDouble) = .toF64 ∧ decodeByte (aliasByte .toSingle) = .toF32 ∧
  decodeByte (aliasByte .toHalf) = .toF16 ∧ decodeByte (aliasByte .fromDouble) = .fromF64 ∧
  decodeByte (aliasByte .fromSingle) = .fromF32 ∧ decodeByte (aliasByte .fromHalf) = .fromF16 ∧
  decodeByte (aliasByte .toString) = .toStr ∧
  ∀ t : TypeToken, decodeByte (aliasByte (.convertTo t)) = decodeTo t

/-! ### Every command -/

/-- Every command, whenever `Q` has an oldest entry, answers the next state in which that entry is gone and its response is
delivered, nothing is presented, and nothing else has changed (R22, R117, R120, R124). -/
def Obligations.EveryCommandAnswers : Prop :=
  ∀ (i : Instr) (s : State) (c : Byte) (src : Bus) (rest : List Command), s.queue = ⟨c, src⟩ :: rest →
    exec i s = .next
      { intPartMode := s.intPartMode, depth := s.depth, queue := rest, presenting := false, waiting := s.waiting,
        accepted := s.accepted, delivered := s.delivered ++ [answerOf s.intPartMode i src], edges := s.edges }

/-- FRAME of every command: the parameters, the request at the port, the record of accepted commands and the environment's
inputs are unchanged; of `Q` only the oldest entry goes; one response is added to those delivered and none is changed. The
block has no register, flag or memory (R18, R28) to be left unchanged. -/
def Obligations.EveryCommandFrame : Prop :=
  ∀ (i : Instr) (s t : State), exec i s = .next t →
    t.intPartMode = s.intPartMode ∧ t.depth = s.depth ∧ t.waiting = s.waiting ∧ t.accepted = s.accepted ∧
    t.edges = s.edges ∧ (∃ c, s.queue = c :: t.queue) ∧ ∃ r, t.delivered = s.delivered ++ [r]

/-- With `Q` empty no command has an entry to answer: the model's own stop, which no step reaches (R22). -/
def Obligations.NoAnswerFromEmptyQueue : Prop :=
  ∀ (i : Instr) (s : State), s.queue = [] → exec i s = .fault .noCommandInFlight

/-- R41: the bits of `req_src` above the operand do not change the response in any way; a command that is no conversion
reads none (`operandWidth` is the table of R41). -/
def Obligations.BitsAboveOperandIgnored : Prop :=
  ∀ (i : Instr) (mode : IntPartMode) (a b : Bus),
    (∀ k, k < operandWidth i → a.getLsbD k = b.getLsbD k) → answerOf mode i a = answerOf mode i b

/-- R42, R56: above the result `rsp_dst` is 0; a response that is not `OK` has `rsp_dst = 0` and `rsp_oor = 0`; only the three
float constructions set `rsp_oor`, and then the status is `OK`. -/
def Obligations.ResponseLayout : Prop :=
  ∀ (i : Instr) (mode : IntPartMode) (src : Bus),
    (∀ k, resultWidth i ≤ k → (answerOf mode i src).dst.getLsbD k = false) ∧
    ((answerOf mode i src).status ≠ .ok → (answerOf mode i src).dst = 0 ∧ (answerOf mode i src).oor = false) ∧
    ((answerOf mode i src).oor = true →
      (answerOf mode i src).status = .ok ∧ (i = .fromF16 ∨ i = .fromF32 ∨ i = .fromF64))

/-- R113 to R115, R117, R118: the status of every byte, by the order of tests of R53; no operand enters the choice. -/
def Obligations.StatusOfEveryByte : Prop :=
  ∀ (mode : IntPartMode) (b : Byte) (src : Bus),
    (execCommand mode ⟨b, src⟩).status.code =
      if b.extractLsb' 5 3 ≠ 0 then 2
      else if b = 0x00 ∨ b = 0x10 then 1
      else if b = 0x0D ∨ b = 0x1D ∨ b = 0x1E then 3
      else if b = 0x0E ∨ b = 0x0F ∨ b = 0x1F then 2
      else 0

/-! ### The commands that are no conversion -/

/-- R103, R104. -/
def Obligations.AbsentTokenAnswers : Prop :=
  Answers 0x10 .toNull (fun _ _ => ⟨0, .invalidArgument, false⟩) ∧
  Answers 0x00 .fromNull (fun _ _ => ⟨0, .invalidArgument, false⟩)

/-- R105, R106, with R120 and R124: the response tells that the value was not computed; `dst = 0` is no result (R116). That
these three commands answer a next state and the block goes on, where R105 and R116 say that a model treats them as a refusal,
is the model's reading (DEDUCED, log 13). -/
def Obligations.UnbuiltTargetsAnswer : Prop :=
  Answers 0x0D .fromDec (fun _ _ => ⟨0, .unimplemented, false⟩) ∧
  Answers 0x1D .toDec (fun _ _ => ⟨0, .unimplemented, false⟩) ∧
  Answers 0x1E .toStr (fun _ _ => ⟨0, .unimplemented, false⟩)

/-- R107: the three reserved bytes with `RSV = 000`, and every byte with `RSV != 000` under the row it falls in. -/
def Obligations.ReservedBytesAnswer : Prop :=
  Answers 0x0E .reserved0E (fun _ _ => ⟨0, .invalidCast, false⟩) ∧
  Answers 0x0F .reserved0F (fun _ _ => ⟨0, .invalidCast, false⟩) ∧
  Answers 0x1F .reserved1F (fun _ _ => ⟨0, .invalidCast, false⟩) ∧
  (∀ b : Byte, 0x80 ≤ b.toNat → Answers b (.reservedRsv1 b) (fun _ _ => ⟨0, .invalidCast, false⟩)) ∧
  (∀ b : Byte, 0x40 ≤ b.toNat → b.toNat < 0x80 → Answers b (.reservedRsv01 b) (fun _ _ => ⟨0, .invalidCast, false⟩)) ∧
  ∀ b : Byte, 0x20 ≤ b.toNat → b.toNat < 0x40 → Answers b (.reservedRsv001 b) (fun _ _ => ⟨0, .invalidCast, false⟩)

/-- R101, R108: dispatch agrees with the typed call for every token, the absent token fails with an invalid argument, and an
unsupported one with an invalid cast. -/
def Obligations.DispatchAgreesWithTyped : Prop :=
  ∀ (mode : IntPartMode) (raw : Raw),
    (∀ t : TypeToken, t ≠ .null → t ≠ .reserved15 →
      convertTo mode t raw = answerOf mode (decodeTo t) (raw.setWidth 64)) ∧
    (convertTo mode .null raw).status = .invalidArgument ∧
    (convertTo mode .reserved15 raw).status = .invalidCast

/-! ### I2X -/

/-- R59 to R61: Boolean and 8-bit sources. -/
def Obligations.ByteSourcesShift : Prop :=
  Answers 0x01 .fromBool (fun _ src => ⟨if src.getLsbD 0 then 0x10000 else 0, .ok, false⟩) ∧
  Answers 0x02 .fromI8 (fun _ src =>
    ⟨(((src.extractLsb' 0 8).signExtend 16) ++ (0#16)).setWidth 64, .ok, false⟩) ∧
  Answers 0x03 .fromU8 (fun _ src => ⟨((0#8) ++ ((src.extractLsb' 0 8) ++ (0#16))).setWidth 64, .ok, false⟩)

/-- R62 to R67: from 16 bits on, the result is `{x[15:0], 16'h0000}` whatever the width and the signedness. The 64-bit sources
wrap by the spec's decision D10 (log 9). -/
def Obligations.WideSourcesKeepLow16 : Prop :=
  Answers 0x04 .fromI16 (fun _ src => ⟨((src.extractLsb' 0 16) ++ (0#16)).setWidth 64, .ok, false⟩) ∧
  Answers 0x05 .fromU16 (fun _ src => ⟨((src.extractLsb' 0 16) ++ (0#16)).setWidth 64, .ok, false⟩) ∧
  Answers 0x06 .fromI32 (fun _ src => ⟨((src.extractLsb' 0 16) ++ (0#16)).setWidth 64, .ok, false⟩) ∧
  Answers 0x07 .fromU32 (fun _ src => ⟨((src.extractLsb' 0 16) ++ (0#16)).setWidth 64, .ok, false⟩) ∧
  Answers 0x08 .fromI64 (fun _ src => ⟨((src.extractLsb' 0 16) ++ (0#16)).setWidth 64, .ok, false⟩) ∧
  Answers 0x09 .fromU64 (fun _ src => ⟨((src.extractLsb' 0 16) ++ (0#16)).setWidth 64, .ok, false⟩)

/-- R57 and R68, with R58, which the spec derives: `raw` is the value times 65536 reduced to 32 bits, zero-extended, always `OK`; its real value differs from
the value by a multiple of 65536, and equals it exactly when `-32768 <= value <= 32767`. -/
def Obligations.IntegerConstructionWraps : Prop :=
  ∀ p ∈ integerSources, ∀ (mode : IntPartMode) (src : Bus),
    (answerOf mode p.1 src).status = .ok ∧ (answerOf mode p.1 src).oor = false ∧
    ((answerOf mode p.1 src).dst.toNat : Int) = (p.2 src * 65536) % 2 ^ 32 ∧
    (∃ k : ℤ, real (rawOf (answerOf mode p.1 src).dst) = (p.2 src : ℚ) + 65536 * k) ∧
    (real (rawOf (answerOf mode p.1 src).dst) = (p.2 src : ℚ) ↔ -32768 ≤ p.2 src ∧ p.2 src ≤ 32767)

/-! ### F2X -/

/-- R45 to R49 (the spec's own general knowledge, G1; log 11): where the fields `S`, `E`, `M` lie, the widths and biases, the
special patterns and values the formats are given by, and for every pattern of every format its class and value by its fields:
a NaN, an infinity of sign `S`, a zero or subnormal, a normal. This ties `fval`, of which the statements below speak, to the
bits. -/
def Obligations.FloatFormatConstants : Prop :=
  (∀ x : BitVec 16, floatSign .f16 x = x.getLsbD 15 ∧ floatExp .f16 x = (x.extractLsb' 10 5).toNat ∧
    floatFrac .f16 x = (x.extractLsb' 0 10).toNat) ∧
  (∀ x : BitVec 32, floatSign .f32 x = x.getLsbD 31 ∧ floatExp .f32 x = (x.extractLsb' 23 8).toNat ∧
    floatFrac .f32 x = (x.extractLsb' 0 23).toNat) ∧
  (∀ x : BitVec 64, floatSign .f64 x = x.getLsbD 63 ∧ floatExp .f64 x = (x.extractLsb' 52 11).toNat ∧
    floatFrac .f64 x = (x.extractLsb' 0 52).toNat) ∧
  (expWidth .f16 = 5 ∧ fracWidth .f16 = 10) ∧ (expWidth .f32 = 8 ∧ fracWidth .f32 = 23) ∧
  (expWidth .f64 = 11 ∧ fracWidth .f64 = 52) ∧
  expBias .f16 = 15 ∧ expBias .f32 = 127 ∧ expBias .f64 = 1023 ∧
  fval .f16 (0x7BFF#16) = some 65504 ∧ fval .f16 (0x0400#16) = some (1 / 2 ^ 14) ∧
  fval .f16 (0x0001#16) = some (1 / 2 ^ 24) ∧
  classify .f16 (0x7C00#16) = .infinity false ∧ classify .f16 (0xFC00#16) = .infinity true ∧
  classify .f32 (0x7F800000#32) = .infinity false ∧ classify .f32 (0xFF800000#32) = .infinity true ∧
  fval .f32 (0x00000001#32) = some (1 / 2 ^ 149) ∧
  classify .f64 (0x7FF0000000000000#64) = .infinity false ∧ classify .f64 (0xFFF0000000000000#64) = .infinity true ∧
  fval .f64 (0x0000000000000001#64) = some (1 / 2 ^ 1074) ∧
  ∀ (f : FloatFormat) (x : BitVec (floatWidth f)),
    (floatExp f x = 2 ^ expWidth f - 1 → floatFrac f x ≠ 0 → classify f x = .nan ∧ fval f x = none) ∧
    (floatExp f x = 2 ^ expWidth f - 1 → floatFrac f x = 0 →
      classify f x = .infinity (floatSign f x) ∧ fval f x = none) ∧
    (floatExp f x = 0 →
      fval f x = some ((-1 : ℚ) ^ (floatSign f x).toNat * floatFrac f x * 2 ^ (1 - expBias f - fracWidth f))) ∧
    (floatExp f x ≠ 0 → floatExp f x ≠ 2 ^ expWidth f - 1 →
      fval f x = some ((-1 : ℚ) ^ (floatSign f x).toNat * (2 ^ fracWidth f + floatFrac f x) *
        2 ^ ((floatExp f x : ℤ) - expBias f - fracWidth f)))

/-- R69, R72, R73 for the three float constructions: the exact product with 65536 rounded to nearest, ties to even, when it
fits 32 signed bits; otherwise, and for a NaN or an infinity, the open `OOR_RAW` of format and operand with `oor = 1`, status
`OK` all the same. Nothing is said of `OOR_RAW` (log 2). The operand's value is `fval`, which FloatFormatConstants ties to the
operand's bits for every pattern. -/
def Obligations.FloatConstructionRounds : Prop :=
  ∀ f : FloatFormat, Answers (fromFloatByte f) (fromFloatInstr f)
    (fun _ src => roundedResponse f (src.setWidth (floatWidth f)))

/-- R78, which the spec derives from its own rules: the guard stays silent exactly on the finite operands with `-2147483648.5 <= value * 65536 < 2147483647.5`. -/
def Obligations.GuardInterval : Prop :=
  ∀ (f : FloatFormat) (x : BitVec (floatWidth f)),
    (fromFloat f x).oor = false ↔
      ∃ v : ℚ, fval f x = some v ∧ -4294967297 / 2 ≤ v * 65536 ∧ v * 65536 < 4294967295 / 2

/-- R77 (a), (b), which the spec derives from its own rules: every operand with `|value| <= 2^-17`, the two zeros and every negative value among them, gives
`raw = 0` and not a mark. -/
def Obligations.TinyFloatsGiveZero : Prop :=
  ∀ (f : FloatFormat) (x : BitVec (floatWidth f)) (v : ℚ), fval f x = some v → |v| ≤ 1 / 131072 →
    fromFloat f x = ⟨0, .ok, false⟩

/-- R9, which the spec derives: rounding a quotient by a power of two on integers is rounding the rational to nearest, ties to even. -/
def Obligations.ShiftRoundingIsRational : Prop :=
  ∀ m k : Nat, 1 ≤ k → (rneShift m k : ℤ) = rneInt ((m : ℚ) / 2 ^ k)

/-! ### X2I -/

/-- R82: `to_bool` is `raw != 0`, in either mode. -/
def Obligations.BoolExtractionIsNonzero : Prop :=
  Answers 0x11 .toBool (fun _ src => ⟨if rawOf src = 0 then 0 else 1, .ok, false⟩)

/-- R83 to R90 with R81: the low `N` bits of the integer part in the instance's mode, the integer part being that of the exact
rational (R80), the same bits for the signed and the unsigned type. -/
def Obligations.IntegerExtractionNarrows : Prop :=
  Answers 0x12 .toI8 (fun m src => ⟨(BitVec.ofInt 8 (integerPart m (rawOf src))).setWidth 64, .ok, false⟩) ∧
  Answers 0x13 .toU8 (fun m src => ⟨(BitVec.ofInt 8 (integerPart m (rawOf src))).setWidth 64, .ok, false⟩) ∧
  Answers 0x14 .toI16 (fun m src => ⟨(BitVec.ofInt 16 (integerPart m (rawOf src))).setWidth 64, .ok, false⟩) ∧
  Answers 0x15 .toU16 (fun m src => ⟨(BitVec.ofInt 16 (integerPart m (rawOf src))).setWidth 64, .ok, false⟩) ∧
  Answers 0x16 .toI32 (fun m src => ⟨(BitVec.ofInt 32 (integerPart m (rawOf src))).setWidth 64, .ok, false⟩) ∧
  Answers 0x17 .toU32 (fun m src => ⟨(BitVec.ofInt 32 (integerPart m (rawOf src))).setWidth 64, .ok, false⟩) ∧
  Answers 0x18 .toI64 (fun m src => ⟨BitVec.ofInt 64 (integerPart m (rawOf src)), .ok, false⟩) ∧
  Answers 0x19 .toU64 (fun m src => ⟨BitVec.ofInt 64 (integerPart m (rawOf src)), .ok, false⟩)

/-- R80: the integer part on bits is `trunc(real(raw))` in one mode and `floor(real(raw))` in the other, lies in
`-32768 .. 32767`, and the two modes differ, by exactly 1, on the negative `raw` with a non-zero fraction. -/
def Obligations.IntegerPartOfEitherMode : Prop :=
  ∀ raw : Raw,
    ipart .truncTowardZero raw = truncRat (real raw) ∧ ipart .floor raw = ⌊real raw⌋ ∧
    (∀ m : IntPartMode, -32768 ≤ ipart m raw ∧ ipart m raw ≤ 32767) ∧
    ipart .truncTowardZero raw - ipart .floor raw =
      if raw.getLsbD 31 = true ∧ raw.extractLsb' 0 16 ≠ 0 then 1 else 0

/-- R91 (a), which the spec derives from its own rules, the exact condition: `to_T(from_T(x)) = x` if and only if `N <= 16` or every bit of `x[N-1:16]` equals `x[15]`; in
both modes. For Boolean it always holds. -/
def Obligations.IntegerRoundTripCondition : Prop :=
  (∀ p ∈ integerTypes, ∀ (mode : IntPartMode) (src : Bus),
    (answerOf mode p.2.1 (answerOf mode p.1 src).dst).dst = (src.setWidth p.2.2).setWidth 64 ↔
      p.2.2 ≤ 16 ∨ ∀ k, 16 ≤ k → k < p.2.2 → src.getLsbD k = src.getLsbD 15) ∧
  ∀ (mode : IntPartMode) (src : Bus),
    (answerOf mode .toBool (answerOf mode .fromBool src).dst).dst = (src.setWidth 1).setWidth 64

/-- R91 (b), which the spec derives from its own rules: with one integer or Boolean type in all three places `from_T(to_T(from_T(v))) = from_T(v)` for every `v`. -/
def Obligations.ConstructionIdempotent : Prop :=
  ∀ p ∈ (Instr.fromBool, Instr.toBool, 1) :: integerTypes, ∀ (mode : IntPartMode) (src : Bus),
    answerOf mode p.1 (answerOf mode p.2.1 (answerOf mode p.1 src).dst).dst = answerOf mode p.1 src

/-! ### X2F -/

/-- R92, R94 to R96: the result is the pattern nearest to the exact `raw / 65536`, ties to the even fraction, `+0` for 0. -/
def Obligations.FloatExtractionNearest : Prop :=
  ∀ f : FloatFormat, ∃ g : Raw → BitVec (floatWidth f),
    Answers (toFloatByte f) (toFloatInstr f) (fun _ src => ⟨(g (rawOf src)).setWidth 64, .ok, false⟩) ∧
    ∀ raw : Raw, NearestEven f raw (g raw)

/-- R97, which the spec derives from its own rules: the sign of a result is `raw[31]`, the result is never a NaN or an infinity, and for `f32` and `f64` never
subnormal; zero gives `+0`, nothing else gives a zero. -/
def Obligations.FloatExtractionClass : Prop :=
  ∀ (f : FloatFormat) (raw : Raw),
    floatSign f (toFloat f raw) = raw.getLsbD 31 ∧
    floatExp f (toFloat f raw) < 2 ^ expWidth f - 1 ∧
    (f ≠ .f16 → raw ≠ 0 → floatExp f (toFloat f raw) ≠ 0) ∧
    (fval f (toFloat f raw) = some 0 ↔ raw = 0) ∧ toFloat f 0 = 0

/-- R98, which the spec derives from its own rules: the result is exact if and only if the magnitude of `raw` has at most `fw + 1` significant bits; for `f64` always. -/
def Obligations.FloatExtractionExactness : Prop :=
  (∀ (f : FloatFormat) (raw : Raw),
    fval f (toFloat f raw) = some (real raw) ↔ ∃ m t : Nat, raw.toInt.natAbs = m * 2 ^ t ∧ m < 2 ^ (fracWidth f + 1)) ∧
  ∀ raw : Raw, fval .f64 (toFloat .f64 raw) = some (real raw)

/-- R99, which the spec derives from its own rules: `from_f(to_f(raw)) = raw` with no mark exactly when the extraction was exact, hence for every `raw` in `f64`. -/
def Obligations.FloatRoundTrip : Prop :=
  ∀ (f : FloatFormat) (mode : IntPartMode) (src : Bus),
    (answerOf mode (fromFloatInstr f) (answerOf mode (toFloatInstr f) src).dst = ⟨(rawOf src).setWidth 64, .ok, false⟩ ↔
      fval f (toFloat f (rawOf src)) = some (real (rawOf src))) ∧
    (f = .f64 →
      answerOf mode (fromFloatInstr f) (answerOf mode (toFloatInstr f) src).dst = ⟨(rawOf src).setWidth 64, .ok, false⟩)

/-- R100, which the spec derives from its own rules: extraction to a float is monotone, and to `f64` strictly increasing. -/
def Obligations.FloatExtractionMonotone : Prop :=
  ∀ (f : FloatFormat) (a b : Raw), a.toInt ≤ b.toInt →
    ∃ v w : ℚ, fval f (toFloat f a) = some v ∧ fval f (toFloat f b) = some w ∧ v ≤ w ∧
      (f = .f64 → a.toInt < b.toInt → v < w)

/-! ### The data type -/

/-- R14, in part derived by the spec: the integer bits and the fraction bits make up the real value, and its range. -/
def Obligations.RealValueSplits : Prop :=
  ∀ raw : Raw,
    real raw = ((raw.extractLsb' 16 16).toInt : ℚ) + ((raw.extractLsb' 0 16).toNat : ℚ) / 65536 ∧
    -32768 ≤ real raw ∧ real raw ≤ 327679999847412109375 / 10 ^ 16

/-- R16: equality and order of `raw` are those of the real values. -/
def Obligations.FixedOrderIsRealOrder : Prop :=
  ∀ a b : Raw, (fixedEq a b = true ↔ real a = real b) ∧ (fixedLt a b = true ↔ real a < real b)

/-- R109, in part derived by the spec: every real value is a decimal with at most 16 fractional digits and fits 21 significant digits. -/
def Obligations.RealIsShortDecimal : Prop :=
  ∀ raw : Raw, ∃ k : ℤ, real raw * 10 ^ 16 = k ∧ |k| < 10 ^ 21

/-! ### The block

The fields `waiting`, `accepted`, `delivered` and `edges` and the bit `present` are the model's own, for the environment and
for the time the spec leaves open (log 5 to 8); where a statement below speaks of them it speaks of these choices. -/

/-- R22, the step `respond`, in the model's form: the host receives `Exec` of the oldest entry and `Q` becomes its tail; nothing
else changes. That it is taken at an edge at which the block presents, that the response goes to a record and that the edge is
used up are the model's choices (DESIGN CHOICE, log 5, 7, 8). A request at the same edge is EdgeMovesBothChannels. -/
def Obligations.RespondDeliversOldest : Prop :=
  ∀ (s : State) (es : List Edge) (c : Command) (rest : List Command),
    s.edges = ⟨false, none, true, true⟩ :: es → s.queue = c :: rest → s.waiting = none →
    step s = .next
      { intPartMode := s.intPartMode, depth := s.depth, queue := rest, presenting := false, waiting := none,
        accepted := s.accepted, delivered := s.delivered ++ [execCommand s.intPartMode c], edges := es }

/-- One clock edge with `rst = 0` and a held request, in full (the model's choices of log 5 to 8 over R19 and R21 to R24): the
oldest entry leaves and its response is delivered when the response is presented and the host ready; otherwise it stays
presented; a presented request is accepted at the young end when `|Q| < DEPTH` before the edge and waits otherwise. That both
channels may move at one edge, each by its readiness as it was before the edge, is the model's reading of R19, R23 and R132
(DEDUCED, log 14). -/
def Obligations.EdgeMovesBothChannels : Prop :=
  ∀ (s : State) (e : Edge) (es : List Edge), s.edges = e :: es → e.rst = false →
    (∀ c, s.waiting = some c → e.req = some c) →
    step s = .next
      { intPartMode := s.intPartMode
        depth := s.depth
        queue := (if (s.presenting || e.present) && e.rspReady then s.queue.tail else s.queue) ++
          (if s.queue.length < s.depth then e.req.toList else [])
        presenting := !s.queue.isEmpty && (s.presenting || e.present) && !e.rspReady
        waiting := if s.queue.length < s.depth then none else e.req
        accepted := s.accepted ++ (if s.queue.length < s.depth then e.req.toList else [])
        delivered := s.delivered ++
          (if (s.presenting || e.present) && e.rspReady then
            (s.queue.head?.map (execCommand s.intPartMode)).toList else [])
        edges := es }

/-- A step runs the decoded instruction: at an edge with `rst = 0` and a held request, when the oldest entry's response is
presented and taken, the step is `exec` of the command its byte decodes to, on the state past this edge (R22, R53), followed by
the request channel. That the request channel moves at the same edge, by `req_ready` as it was before the edge, is the model's
reading (DEDUCED, log 14); the held request, the presenting bit and the edge are the model's (DESIGN CHOICE, log 5, 6, 8). -/
def Obligations.StepRunsDecodedCommand : Prop :=
  ∀ (s : State) (e : Edge) (es : List Edge) (b : Byte) (src : Bus) (rest : List Command) (i : Instr),
    s.edges = e :: es → s.queue = ⟨b, src⟩ :: rest → decodeByte b = i → e.rst = false →
    (∀ c, s.waiting = some c → e.req = some c) → (s.presenting || e.present) = true → e.rspReady = true →
    step s = onNext (fun t => t.offer (decide (s.queue.length < s.depth)) e.req) (exec i { s with edges := es })

/-- R21, the step `accept`, in the model's form: it appends at the young end whenever `|Q| < DEPTH`, for every byte and every
operand; nothing else of the block changes. That the request no longer waits, that the command is recorded and that the edge is
used up are the model's choices (DESIGN CHOICE, log 6, 7, 8). -/
def Obligations.AcceptAppends : Prop :=
  ∀ (s : State) (es : List Edge) (b : Byte) (src : Bus),
    s.edges = ⟨false, some ⟨b, src⟩, false, false⟩ :: es → s.queue.length < s.depth →
    (s.presenting = true → s.queue ≠ []) → (∀ c, s.waiting = some c → c = ⟨b, src⟩) →
    step s = .next
      { intPartMode := s.intPartMode, depth := s.depth, queue := s.queue ++ [⟨b, src⟩], presenting := s.presenting,
        waiting := none, accepted := s.accepted ++ [⟨b, src⟩], delivered := s.delivered, edges := es }

/-- R125 to R128: at an edge with `rst = 1`, for a host that holds its waiting request (R24 (a)), whatever else holds at the edge
and whatever the block was doing, `Q` is emptied, nothing is presented, nothing is accepted or delivered, and the parameters
stay; a request presented at it, to which `req_ready = 0`, waits. That the records start again and how the request is remembered
are the model's choices (DESIGN CHOICE, log 6, 7). -/
def Obligations.ResetDropsEverything : Prop :=
  ∀ (s : State) (e : Edge) (es : List Edge), s.edges = e :: es → e.rst = true →
    (∀ c, s.waiting = some c → e.req = some c) →
    step s = .next
      { State.reset with intPartMode := s.intPartMode, depth := s.depth, waiting := e.req, edges := es }

/-- R26, R126: after reset `Q` is empty, nothing is presented, `req_ready` is 1 with `rst = 0`, and the integer part truncates
(R6). -/
def Obligations.ResetState : Prop :=
  State.reset.queue = [] ∧ State.reset.presenting = false ∧ State.reset.reqReady false = true ∧
  (∀ e : Edge, State.reset.rspValid e = false ∧ State.reset.rspOut e = none) ∧
  State.reset.intPartMode = .truncTowardZero ∧ 1 ≤ State.reset.depth

/-- R19, R23, R128: the ports. `req_ready = 1` exactly when `|Q| < DEPTH` and `rst = 0`; `rsp_valid = 1` exactly when there is
an oldest entry, its response was being presented already or the block begins to present it by this edge (the model's choice of
the open time: DESIGN CHOICE, log 5), and `rst = 0`; with `rst = 1` nothing is presented; while `rsp_valid = 1` the outputs are
`Exec` of the oldest entry, and while it is 0 they have no value. -/
def Obligations.PortsFollowState : Prop :=
  ∀ (s : State) (e : Edge),
    (s.reqReady e.rst = true ↔ s.queue.length < s.depth ∧ e.rst = false) ∧
    (s.rspValid e = true ↔ s.queue ≠ [] ∧ (s.presenting = true ∨ e.present = true) ∧ e.rst = false) ∧
    (e.rst = true → s.rspValid e = false) ∧
    (s.rspValid e = false → s.rspOut e = none) ∧
    (s.rspValid e = true → ∃ c rest, s.queue = c :: rest ∧ s.rspOut e = some (execCommand s.intPartMode c))

/-- R23: a presented response stays presented, with the same outputs, until the transfer or a reset. -/
def Obligations.PresentedResponseHolds : Prop :=
  ∀ (s t : State) (e : Edge) (es : List Edge), s.edges = e :: es → s.rspValid e = true → e.rspReady = false →
    step s = .next t → ∀ e' : Edge, e'.rst = false → t.rspValid e' = true ∧ t.rspOut e' = s.rspOut e

/-- R24 (a), U10: a host that changes or withdraws a waiting request, at any edge, one with `rst = 1` too, is outside the model,
which gives no next state (log 6). -/
def Obligations.UnheldRequestRefused : Prop :=
  ∀ (s : State) (e : Edge) (es : List Edge) (c : Command), s.edges = e :: es → s.waiting = some c → e.req ≠ some c →
    step s = .refused .requestNotHeld

/-- The block never stops: from every state a step answers a next state, except when the host breaks R24 (a) (R120, R124). -/
def Obligations.BlockNeverStops : Prop :=
  ∀ s : State, (∃ t, step s = .next t) ∨
    ∃ e es c, s.edges = e :: es ∧ s.waiting = some c ∧ e.req ≠ some c ∧
      step s = .refused .requestNotHeld

/-- R135: while `Q` is not empty the respond transfer is enabled for the environment to take, whatever is in flight and
whatever waits at the port: there is an edge with `rst = 0` at which one more response is delivered. -/
def Obligations.ResponseAlwaysEnabled : Prop :=
  ∀ s : State, s.queue ≠ [] →
    ∃ (e : Edge) (t : State), step { s with edges := [e] } = .next t ∧ e.rst = false ∧ e.rspReady = true ∧
      t.delivered.length = s.delivered.length + 1

/-- R135: if the host keeps taking responses and issues nothing, every command in flight is answered, in order, and `Q` is
empty after as many transfers as it had entries. -/
def Obligations.DrainAnswersEveryCommand : Prop :=
  ∀ (s : State) (es : List Edge), s.waiting = none →
    s.edges = List.replicate s.queue.length ⟨false, none, true, true⟩ ++ es →
    ∃ t, Host.Core.run Sys2Proof.core s.queue.length s = .next t ∧ t.queue = [] ∧ t.edges = es ∧
      t.accepted = s.accepted ∧ t.delivered = s.delivered ++ s.queue.map (execCommand s.intPartMode)

/-- R132: with `Q` full nothing is accepted, and taking one response enables `accept` again. That a full queue accepts nothing
even at the very edge at which its oldest response leaves is the model's choice among the readings (DEDUCED, log 14). -/
def Obligations.BackpressureReleases : Prop :=
  ∀ (s t : State) (e : Edge) (es : List Edge), s.queueOk → s.edges = e :: es → s.queue.length = s.depth →
    e.rst = false → step s = .next t →
    t.accepted = s.accepted ∧
    ((s.presenting || e.present) = true → e.rspReady = true → t.reqReady false = true)

/-- R6, R26: the parameters are fixed for the instance: no step changes them. -/
def Obligations.ParametersNeverChange : Prop :=
  ∀ s t : State, step s = .next t → t.intPartMode = s.intPartMode ∧ t.depth = s.depth

/-- R11, R27, R121: two states with the same oldest entry and the same mode give that entry the same response, whatever else
is in flight, presented, recorded or to come: nothing a command does is visible to a later one (R18 (a)). -/
def Obligations.ResponseDependsOnEntryAlone : Prop :=
  ∀ (s₁ s₂ t₁ t₂ : State) (c : Command) (rest₁ rest₂ : List Command),
    s₁.queue = c :: rest₁ → s₂.queue = c :: rest₂ → s₁.intPartMode = s₂.intPartMode →
    exec (decodeByte c.cmd) s₁ = .next t₁ → exec (decodeByte c.cmd) s₂ = .next t₂ →
    ∃ r, t₁.delivered = s₁.delivered ++ [r] ∧ t₂.delivered = s₂.delivered ++ [r]

/-! ### Invariants -/

/-- `State.queueOk` holds at reset (R20, R26). -/
def Obligations.ResetQueueOk : Prop := State.reset.queueOk

/-- R20: every step keeps `1 <= DEPTH`, `|Q| <= DEPTH` and that only an entry's response is presented. -/
def Obligations.StepKeepsQueueOk : Prop :=
  ∀ s t : State, s.queueOk → step s = .next t → t.queueOk

/-- `State.inOrder` holds at reset (R127). -/
def Obligations.ResetInOrder : Prop := State.reset.inOrder

/-- R34, over the model's records (log 7): every step keeps that the accepted commands are the answered ones followed by those in flight, and the responses
delivered are `Exec` of the answered ones, in order: none dropped, duplicated, reordered or invented. -/
def Obligations.StepKeepsInOrder : Prop :=
  ∀ s t : State, s.inOrder → step s = .next t → t.inOrder

/-- R133, which the spec derives from its own rules, over the model's records (log 7): from every state in order, after any number of clock edges of any schedule and any `DEPTH`, a state with `Q` empty
has delivered exactly `Exec` of the commands accepted since the last reset, in their order. -/
def Obligations.RunObservesExec : Prop :=
  ∀ (k : Nat) (s t : State), s.inOrder → Host.Core.run Sys2Proof.core k s = .next t →
    t.inOrder ∧ (t.queue = [] → t.delivered = t.accepted.map (execCommand s.intPartMode))
end

