-- ==== Sys2Proof/Laws/State.lean ====
section
/-! SUPPORT. What each update of the state leaves in each field, and that the updates of the two channels do not meet. -/

namespace Sys2Proof.Machine

open Sys2Proof

section answered

variable (s : State) (rest : List Command) (r : Response)

@[simp] theorem State.answered_intPartMode : (s.answered rest r).intPartMode = s.intPartMode := rfl
@[simp] theorem State.answered_depth : (s.answered rest r).depth = s.depth := rfl
@[simp] theorem State.answered_queue : (s.answered rest r).queue = rest := rfl
@[simp] theorem State.answered_presenting : (s.answered rest r).presenting = false := rfl
@[simp] theorem State.answered_waiting : (s.answered rest r).waiting = s.waiting := rfl
@[simp] theorem State.answered_accepted : (s.answered rest r).accepted = s.accepted := rfl
@[simp] theorem State.answered_delivered : (s.answered rest r).delivered = s.delivered ++ [r] := rfl
@[simp] theorem State.answered_edges : (s.answered rest r).edges = s.edges := rfl

end answered

section accept

variable (s : State) (c : Command)

@[simp] theorem State.accept_intPartMode : (s.accept c).intPartMode = s.intPartMode := rfl
@[simp] theorem State.accept_depth : (s.accept c).depth = s.depth := rfl
@[simp] theorem State.accept_queue : (s.accept c).queue = s.queue ++ [c] := rfl
@[simp] theorem State.accept_presenting : (s.accept c).presenting = s.presenting := rfl
@[simp] theorem State.accept_waiting : (s.accept c).waiting = none := rfl
@[simp] theorem State.accept_accepted : (s.accept c).accepted = s.accepted ++ [c] := rfl
@[simp] theorem State.accept_delivered : (s.accept c).delivered = s.delivered := rfl
@[simp] theorem State.accept_edges : (s.accept c).edges = s.edges := rfl

end accept

section resetBlock

variable (s : State)

@[simp] theorem State.resetBlock_intPartMode : s.resetBlock.intPartMode = s.intPartMode := rfl
@[simp] theorem State.resetBlock_depth : s.resetBlock.depth = s.depth := rfl
@[simp] theorem State.resetBlock_queue : s.resetBlock.queue = [] := rfl
@[simp] theorem State.resetBlock_presenting : s.resetBlock.presenting = false := rfl
@[simp] theorem State.resetBlock_waiting : s.resetBlock.waiting = s.waiting := rfl
@[simp] theorem State.resetBlock_accepted : s.resetBlock.accepted = [] := rfl
@[simp] theorem State.resetBlock_delivered : s.resetBlock.delivered = [] := rfl
@[simp] theorem State.resetBlock_edges : s.resetBlock.edges = s.edges := rfl

end resetBlock

section offer

variable (s : State) (ready : Bool) (req : Option Command)

@[simp] theorem State.offer_none : s.offer ready none = { s with waiting := none } := rfl
@[simp] theorem State.offer_ready (c : Command) : s.offer true (some c) = s.accept c := rfl
@[simp] theorem State.offer_notReady (c : Command) : s.offer false (some c) = { s with waiting := some c } := rfl

@[simp] theorem State.offer_intPartMode : (s.offer ready req).intPartMode = s.intPartMode := by
  cases req <;> cases ready <;> rfl
@[simp] theorem State.offer_depth : (s.offer ready req).depth = s.depth := by
  cases req <;> cases ready <;> rfl
@[simp] theorem State.offer_queue :
    (s.offer ready req).queue = s.queue ++ (if ready then req.toList else []) := by
  cases req <;> cases ready <;> simp [State.offer]
@[simp] theorem State.offer_presenting : (s.offer ready req).presenting = s.presenting := by
  cases req <;> cases ready <;> rfl
@[simp] theorem State.offer_waiting : (s.offer ready req).waiting = if ready then none else req := by
  cases req <;> cases ready <;> rfl
@[simp] theorem State.offer_accepted :
    (s.offer ready req).accepted = s.accepted ++ (if ready then req.toList else []) := by
  cases req <;> cases ready <;> simp [State.offer]
@[simp] theorem State.offer_delivered : (s.offer ready req).delivered = s.delivered := by
  cases req <;> cases ready <;> rfl
@[simp] theorem State.offer_edges : (s.offer ready req).edges = s.edges := by
  cases req <;> cases ready <;> rfl

end offer

/-- Two states with the same fields are the same state. -/
theorem State.eq_of_fields {s t : State} (hm : s.intPartMode = t.intPartMode) (hd : s.depth = t.depth)
    (hq : s.queue = t.queue) (hp : s.presenting = t.presenting) (hw : s.waiting = t.waiting)
    (ha : s.accepted = t.accepted) (hr : s.delivered = t.delivered) (he : s.edges = t.edges) : s = t := by
  cases s; cases t; simp_all

end Sys2Proof.Machine
end

