-- ==== Sys2Proof/Laws/Ops.lean ====
section
/-! SUPPORT. What each shared operation can do: the response transfer, carrying a next state on, the hold of a request, and
where operands and results lie. -/

namespace Sys2Proof.Machine

open Sys2Proof

/-- On a non-empty `Q` the response transfer answers a next state. -/
theorem respondWith_cons {answer : Bus → Response} {s : State} {c : Command} {rest : List Command}
    (h : s.queue = c :: rest) : respondWith answer s = .next (s.answered rest (answer c.src)) := by
  simp [respondWith, h]

/-- On an empty `Q` it faults. -/
theorem respondWith_nil {answer : Bus → Response} {s : State} (h : s.queue = []) :
    respondWith answer s = .fault .noCommandInFlight := by
  simp [respondWith, h]

/-- If the response transfer answers a next state, `Q` had an oldest entry and this is that entry's answer. -/
theorem respondWith_next {answer : Bus → Response} {s t : State} (h : respondWith answer s = .next t) :
    ∃ c rest, s.queue = c :: rest ∧ t = s.answered rest (answer c.src) := by
  cases hq : s.queue with
  | nil => simp [respondWith_nil hq] at h
  | cons c rest =>
    rw [respondWith_cons hq] at h
    exact ⟨c, rest, rfl, by injection h with h; exact h.symm⟩

/-- A carried next state comes from a next state. -/
theorem onNext_next {f : State → State} {o : Host.Outcome State Fault Refusal} {t : State}
    (h : onNext f o = .next t) : ∃ s, o = .next s ∧ t = f s := by
  cases o with
  | next s => exact ⟨s, rfl, by simpa [onNext] using h.symm⟩
  | fault r => simp [onNext] at h
  | refused r => simp [onNext] at h

@[simp] theorem onNext_of_next (f : State → State) (s : State) : onNext f (.next s) = .next (f s) := rfl

/-- A waiting request is held exactly when the edge presents it again. -/
theorem requestHeld_iff {s : State} {e : Edge} :
    s.requestHeld e = true ↔ ∀ c, s.waiting = some c → e.req = some c := by
  cases h : s.waiting <;> simp [State.requestHeld, h]

/-- Bit `k` of an operand is bit `k` of the bus below the operand's width. -/
@[simp] theorem operand_getLsbD (n : Nat) (src : Bus) (k : Nat) :
    (operand n src).getLsbD k = (decide (k < n) && src.getLsbD k) := by
  simp [operand]

/-- Two bus values that agree below `n` give the same `n`-bit operand. -/
theorem operand_congr {n : Nat} {a b : Bus} (h : ∀ k < n, a.getLsbD k = b.getLsbD k) : operand n a = operand n b := by
  apply BitVec.eq_of_getLsbD_eq
  intro k hk
  simp [h k hk]

@[simp] theorem okResponse_status {n : Nat} (v : BitVec n) : (okResponse v).status = .ok := rfl
@[simp] theorem okResponse_oor {n : Nat} (v : BitVec n) : (okResponse v).oor = false := rfl
@[simp] theorem okResponse_dst {n : Nat} (v : BitVec n) : (okResponse v).dst = v.setWidth 64 := rfl
@[simp] theorem oorResponse_status (raw : Raw) : (oorResponse raw).status = .ok := rfl
@[simp] theorem oorResponse_oor (raw : Raw) : (oorResponse raw).oor = true := rfl
@[simp] theorem oorResponse_dst (raw : Raw) : (oorResponse raw).dst = raw.setWidth 64 := rfl
@[simp] theorem errorResponse_status (st : Status) : (errorResponse st).status = st := rfl
@[simp] theorem errorResponse_oor (st : Status) : (errorResponse st).oor = false := rfl
@[simp] theorem errorResponse_dst (st : Status) : (errorResponse st).dst = 0 := rfl

end Sys2Proof.Machine
end

