-- ==== Sys2Proof/Laws/Exec.lean ====
section
/-! SUPPORT. Every meaning is the response transfer with the command's own response. -/

namespace Sys2Proof.Machine

open Sys2Proof

/-- What a meaning is, for every command. -/
theorem exec_eq_respondWith (i : Instr) (s : State) : exec i s = respondWith (answerOf s.intPartMode i) s := by
  cases i <;> rfl

/-- If a meaning answers a next state, it is the oldest entry's response, delivered. -/
theorem exec_next {i : Instr} {s t : State} (h : exec i s = .next t) :
    ∃ c rest, s.queue = c :: rest ∧ t = s.answered rest (answerOf s.intPartMode i c.src) := by
  rw [exec_eq_respondWith] at h
  exact respondWith_next h

/-- The oldest entry, run by its own byte, delivers `Exec` of it. -/
theorem exec_decodeByte {s : State} {c : Command} {rest : List Command} (h : s.queue = c :: rest) :
    exec (decodeByte c.cmd) s = .next (s.answered rest (execCommand s.intPartMode c)) := by
  rw [exec_eq_respondWith, respondWith_cons h]
  rfl

end Sys2Proof.Machine
end

