-- ==== Sys2Proof/Laws/Clock.lean ====
section
/-! SUPPORT. What the response channel and one step can do. -/

namespace Sys2Proof.Machine

open Sys2Proof

/-- The response channel always answers a next state: the oldest entry's response leaves, or it is presented, or nothing is. -/
theorem responseChannel_cases (e : Edge) (s : State) :
    (s.queue = [] ∧ responseChannel e s = .next { s with presenting := false }) ∨
    (∃ c rest, s.queue = c :: rest ∧ (s.presenting || e.present) = true ∧ e.rspReady = true ∧
      responseChannel e s = .next (s.answered rest (execCommand s.intPartMode c))) ∨
    (s.queue ≠ [] ∧ (s.presenting || e.present) = true ∧ e.rspReady = false ∧
      responseChannel e s = .next { s with presenting := true }) ∨
    (s.queue ≠ [] ∧ (s.presenting || e.present) = false ∧ responseChannel e s = .next s) := by
  cases hq : s.queue with
  | nil => exact .inl ⟨rfl, by simp [responseChannel, hq]⟩
  | cons c rest =>
    refine .inr ?_
    by_cases hp : (s.presenting || e.present) = true
    · cases hr : e.rspReady with
      | true =>
        refine .inl ⟨c, rest, rfl, hp, rfl, ?_⟩
        simp only [responseChannel, hq, hp, hr, if_true]
        exact exec_decodeByte hq
      | false =>
        refine .inr (.inl ⟨by simp, hp, rfl, ?_⟩)
        simp [responseChannel, hq, hp, hr]
    · have hp' : (s.presenting || e.present) = false := by simpa using hp
      refine .inr (.inr ⟨by simp, hp', ?_⟩)
      simp only [responseChannel, hq, hp']
      simp

/-- What a step at an edge is when the host holds its request. -/
theorem step_of_held {s : State} {e : Edge} {es : List Edge} (he : s.edges = e :: es) (hh : s.requestHeld e = true) :
    step s = onNext (fun t => t.offer (s.reqReady e.rst) e.req)
      (if e.rst then .next (State.resetBlock { s with edges := es }) else responseChannel e { s with edges := es }) := by
  have hw : State.requestHeld { s with edges := es } e = true := hh
  simp only [step, nextEdge, he, clockEdge, hw, if_true]
  rfl

/-- What a step at an edge is when the host does not. -/
theorem step_of_not_held {s : State} {e : Edge} {es : List Edge} (he : s.edges = e :: es) (hh : s.requestHeld e = false) :
    step s = .refused .requestNotHeld := by
  have hw : State.requestHeld { s with edges := es } e = false := hh
  simp only [step, nextEdge, he, clockEdge, hw, Bool.false_eq_true, if_false]

/-- If a step answers a next state, there was no edge and nothing changed, or the host held its request, and then the edge
reset the block and what the host presented waits, or both channels moved. -/
theorem step_next {s t : State} (h : step s = .next t) :
    (s.edges = [] ∧ t = s) ∨
    ∃ e es, s.edges = e :: es ∧ s.requestHeld e = true ∧
      ((e.rst = true ∧ t = (State.resetBlock { s with edges := es }).offer false e.req) ∨
       (e.rst = false ∧ ∃ u, responseChannel e { s with edges := es } = .next u ∧ t = u.offer s.hasRoom e.req)) := by
  cases he : s.edges with
  | nil => exact .inl ⟨rfl, by simpa [step, nextEdge, he] using h.symm⟩
  | cons e es =>
    simp only [step, nextEdge, he, clockEdge] at h
    split at h
    · rename_i hh
      refine .inr ⟨e, es, rfl, hh, ?_⟩
      obtain ⟨u, hu, ht⟩ := onNext_next h
      cases hr : e.rst with
      | true =>
        simp only [hr, if_true, Host.Outcome.next.injEq] at hu
        exact .inl ⟨rfl, by simpa [hr, hu, State.reqReady] using ht⟩
      | false => exact .inr ⟨rfl, u, by simpa [hr] using hu, by simpa [hr, State.reqReady, State.hasRoom] using ht⟩
    · cases h

end Sys2Proof.Machine
end

