-- ==== Sys2Proof/Laws/Floats.lean ====
section
/-! SUPPORT. The fields of a pattern put together from fields, and the range of the fields. -/

namespace Sys2Proof.Machine

open Sys2Proof

theorem floatExp_lt (f : FloatFormat) (x : BitVec (floatWidth f)) : floatExp f x < 2 ^ expWidth f :=
  (x.extractLsb' (fracWidth f) (expWidth f)).isLt

theorem floatFrac_lt (f : FloatFormat) (x : BitVec (floatWidth f)) : floatFrac f x < 2 ^ fracWidth f :=
  (x.extractLsb' 0 (fracWidth f)).isLt

/-- A packed pattern read as a number. -/
theorem packFloat_toNat {f : FloatFormat} {neg : Bool} {e m : Nat} (he : e < 2 ^ expWidth f)
    (hm : m < 2 ^ fracWidth f) :
    (packFloat f neg e m).toNat = (if neg then 2 ^ (expWidth f + fracWidth f) else 0) + e * 2 ^ fracWidth f + m := by
  rw [packFloat, BitVec.toNat_ofNat, Nat.mod_eq_of_lt]
  cases f <;> cases neg <;> simp [expWidth, fracWidth, floatWidth] at * <;> omega

theorem floatFrac_packFloat {f : FloatFormat} {neg : Bool} {e m : Nat} (he : e < 2 ^ expWidth f)
    (hm : m < 2 ^ fracWidth f) : floatFrac f (packFloat f neg e m) = m := by
  rw [floatFrac, BitVec.extractLsb'_toNat, packFloat_toNat he hm]
  cases f <;> cases neg <;> simp [expWidth, fracWidth] at * <;> omega

theorem floatExp_packFloat {f : FloatFormat} {neg : Bool} {e m : Nat} (he : e < 2 ^ expWidth f)
    (hm : m < 2 ^ fracWidth f) : floatExp f (packFloat f neg e m) = e := by
  rw [floatExp, BitVec.extractLsb'_toNat, packFloat_toNat he hm, Nat.shiftRight_eq_div_pow]
  cases f <;> cases neg <;> simp [expWidth, fracWidth] at * <;> omega

theorem floatSign_packFloat {f : FloatFormat} {neg : Bool} {e m : Nat} (he : e < 2 ^ expWidth f)
    (hm : m < 2 ^ fracWidth f) : floatSign f (packFloat f neg e m) = neg := by
  rw [floatSign, BitVec.getLsbD, packFloat_toNat he hm, Nat.testBit_eq_decide_div_mod_eq]
  cases f <;> cases neg <;> simp [expWidth, fracWidth] at * <;> omega

/-- The value of a pattern that is no NaN and no infinity, by its fields. -/
theorem fval_of_exp_lt {f : FloatFormat} {x : BitVec (floatWidth f)} (h : floatExp f x ≠ 2 ^ expWidth f - 1) :
    fval f x = some ((if floatSign f x then -1 else 1) *
      (if floatExp f x = 0 then (floatFrac f x : ℚ) * 2 ^ (1 - expBias f - fracWidth f)
       else ((2 ^ fracWidth f + floatFrac f x : Nat) : ℚ) * 2 ^ ((floatExp f x : Int) - expBias f - fracWidth f))) := by
  simp only [fval, classify, h, if_false]
  by_cases h0 : floatExp f x = 0 <;> cases floatSign f x <;> (simp [h0]; try ring)

end Sys2Proof.Machine
end

