-- ==== Sys2Proof/Laws/Numeric.lean ====
section
/-! SUPPORT. What the numeric primitives compute. -/

namespace Sys2Proof.Machine

open Sys2Proof

/-- `low_n(k)` read unsigned is `k mod 2^n`. -/
theorem lowBits_toNat (n : Nat) (k : Int) : ((lowBits n k).toNat : Int) = k % 2 ^ n := by
  simp only [lowBits, BitVec.toNat_ofInt]
  rw [Int.toNat_of_nonneg (Int.emod_nonneg _ (by positivity))]
  simp

/-- `low_n(k)` read signed is `k` when `k` fits `n` signed bits. -/
theorem lowBits_toInt {n : Nat} {k : Int} (hn : 0 < n) (lo : -2 ^ (n - 1) ≤ k) (hi : k < 2 ^ (n - 1)) :
    (lowBits n k).toInt = k := by
  rw [lowBits]
  apply BitVec.toInt_ofInt_eq_self hn lo hi

/-- Rounding to nearest is off by at most one half. -/
theorem rneInt_near (x : ℚ) : |x - rneInt x| ≤ 1 / 2 := by
  have h0 := Int.floor_le x
  have h1 := Int.lt_floor_add_one x
  simp only [rneInt]
  rw [abs_le]
  split
  · constructor <;> linarith
  · split
    · push_cast
      constructor <;> linarith
    · split <;> push_cast <;> constructor <;> linarith

/-- On a tie, rounding to nearest gives the even neighbour. -/
theorem rneInt_tie_even {x : ℚ} (h : |x - rneInt x| = 1 / 2) : rneInt x % 2 = 0 := by
  have h0 := Int.floor_le x
  have h1 := Int.lt_floor_add_one x
  simp only [rneInt] at h ⊢
  split at h
  · rename_i hd
    rw [abs_of_nonneg (by linarith)] at h
    linarith
  · split at h
    · rename_i hd
      push_cast at h
      rw [abs_of_nonpos (by linarith)] at h
      linarith
    · rename_i h2 h3
      simp only [h2, h3, if_false]
      split
      · assumption
      · omega

/-- Rounding an integer to nearest leaves it. -/
@[simp] theorem rneInt_intCast (k : ℤ) : rneInt (k : ℚ) = k := by
  simp [rneInt]

/-- The rounded quotient is within one half of the exact one. -/
theorem rneShift_near (m k : Nat) (hk : 1 ≤ k) :
    2 * (rneShift m k * 2 ^ k) ≤ 2 * m + 2 ^ k ∧ 2 * m ≤ 2 * (rneShift m k * 2 ^ k) + 2 ^ k := by
  obtain ⟨j, rfl⟩ : ∃ j, k = j + 1 := ⟨k - 1, by omega⟩
  have hdiv : 2 ^ (j + 1) * (m / 2 ^ (j + 1)) + m % 2 ^ (j + 1) = m := Nat.div_add_mod _ _
  have hlt : m % 2 ^ (j + 1) < 2 ^ (j + 1) := Nat.mod_lt _ (by positivity)
  have hp : 2 ^ (j + 1) = 2 * 2 ^ j := by rw [pow_succ]; ring
  simp only [rneShift, Nat.shiftRight_eq_div_pow, Nat.add_sub_cancel]
  generalize m / 2 ^ (j + 1) = q at *
  generalize m % 2 ^ (j + 1) = r at *
  rw [hp] at hdiv hlt ⊢
  generalize 2 ^ j = p at *
  have e1 : (q + 1) * (2 * p) = 2 * p * q + 2 * p := by ring
  have e2 : q * (2 * p) = 2 * p * q := by ring
  split
  · rename_i h
    rw [e1]
    constructor <;> omega
  · rename_i h
    rw [e2]
    constructor <;> omega

/-- A word is its integer bits and its fraction bits. -/
theorem toInt_split (raw : Raw) : raw.toInt = (intBits raw).toInt * 65536 + (fracBits raw).toNat := by
  have h := raw.isLt
  simp only [intBits, fracBits, BitVec.toInt_eq_toNat_cond, BitVec.extractLsb'_toNat, Nat.shiftRight_eq_div_pow,
    Nat.reducePow, Nat.div_one, pow_zero]
  split <;> split <;> omega

/-- The fraction bits are below `2^16`. -/
theorem fracBits_lt (raw : Raw) : (fracBits raw).toNat < 65536 := (fracBits raw).isLt

/-- The integer bits read signed lie between `-32768` and `32767`. -/
theorem intBits_range (raw : Raw) : -32768 ≤ (intBits raw).toInt ∧ (intBits raw).toInt ≤ 32767 := by
  have h := (intBits raw).isLt
  simp only [BitVec.toInt_eq_toNat_cond]
  constructor <;> split <;> omega

end Sys2Proof.Machine
end

