-- ==== Sys2Proof/Laws/PerInstr.lean ====
section
/-! SUPPORT. One lemma per command: the decoder reads back the byte the encoder writes. -/

namespace Sys2Proof.Laws.EncodeDecode

open Sys2Proof

/-- Decoding the byte of a well-formed command gives the command back. -/
abbrev Statement (i : Instr) : Prop := i.wellFormed = true → decodeByte (encodeByte i) = i

theorem fromNull : Statement .fromNull := fun _ => rfl

theorem fromBool : Statement .fromBool := fun _ => rfl

theorem fromI8 : Statement .fromI8 := fun _ => rfl

theorem fromU8 : Statement .fromU8 := fun _ => rfl

theorem fromI16 : Statement .fromI16 := fun _ => rfl

theorem fromU16 : Statement .fromU16 := fun _ => rfl

theorem fromI32 : Statement .fromI32 := fun _ => rfl

theorem fromU32 : Statement .fromU32 := fun _ => rfl

theorem fromI64 : Statement .fromI64 := fun _ => rfl

theorem fromU64 : Statement .fromU64 := fun _ => rfl

theorem fromF16 : Statement .fromF16 := fun _ => rfl

theorem fromF32 : Statement .fromF32 := fun _ => rfl

theorem fromF64 : Statement .fromF64 := fun _ => rfl

theorem fromDec : Statement .fromDec := fun _ => rfl

theorem toNull : Statement .toNull := fun _ => rfl

theorem toBool : Statement .toBool := fun _ => rfl

theorem toI8 : Statement .toI8 := fun _ => rfl

theorem toU8 : Statement .toU8 := fun _ => rfl

theorem toI16 : Statement .toI16 := fun _ => rfl

theorem toU16 : Statement .toU16 := fun _ => rfl

theorem toI32 : Statement .toI32 := fun _ => rfl

theorem toU32 : Statement .toU32 := fun _ => rfl

theorem toI64 : Statement .toI64 := fun _ => rfl

theorem toU64 : Statement .toU64 := fun _ => rfl

theorem toF16 : Statement .toF16 := fun _ => rfl

theorem toF32 : Statement .toF32 := fun _ => rfl

theorem toF64 : Statement .toF64 := fun _ => rfl

theorem toDec : Statement .toDec := fun _ => rfl

theorem toStr : Statement .toStr := fun _ => rfl

theorem reserved0E : Statement .reserved0E := fun _ => rfl

theorem reserved0F : Statement .reserved0F := fun _ => rfl

theorem reserved1F : Statement .reserved1F := fun _ => rfl

theorem reservedRsv1 (cmd : Byte) : Statement (.reservedRsv1 cmd) := by
  revert cmd; decide

theorem reservedRsv01 (cmd : Byte) : Statement (.reservedRsv01 cmd) := by
  revert cmd; decide

theorem reservedRsv001 (cmd : Byte) : Statement (.reservedRsv001 cmd) := by
  revert cmd; decide

end Sys2Proof.Laws.EncodeDecode
end

