-- ==== Sys2Proof/Tests/Slice0.lean ====
section
/-! SUPPORT. Tests: the well-formedness checks, every command's byte, one response for each command, the steps of the block, and
the witnesses of the obligations' hypotheses. Expected values are those of spec/95_test_vectors.md and of the rules' own
examples, cited at each theorem. -/

namespace Sys2Proof.Tests

open Sys2Proof Sys2Proof.Machine

/-! ### Well-formedness: for each check an ill-formed term, refused, beside a well-formed one -/

theorem test_wellFormed_rsv1 :
    (Instr.reservedRsv1 0x7F).wellFormed = false ∧ (Instr.reservedRsv1 0x80).wellFormed = true := by decide
theorem test_wellFormed_rsv01 :
    (Instr.reservedRsv01 0xC0).wellFormed = false ∧ (Instr.reservedRsv01 0x3F).wellFormed = false ∧
      (Instr.reservedRsv01 0x4D).wellFormed = true := by decide
theorem test_wellFormed_rsv001 :
    (Instr.reservedRsv001 0x60).wellFormed = false ∧ (Instr.reservedRsv001 0x1F).wellFormed = false ∧
      (Instr.reservedRsv001 0x24).wellFormed = true := by decide

/-! ### Decoding: the bytes written out, `RSV DIR TYPE`, from R39 and R50 -/

theorem test_decode_construction_integers :
    decodeByte 0b000_0_0001 = .fromBool ∧ decodeByte 0b000_0_0010 = .fromI8 ∧ decodeByte 0b000_0_0011 = .fromU8 ∧
    decodeByte 0b000_0_0100 = .fromI16 ∧ decodeByte 0b000_0_0101 = .fromU16 ∧ decodeByte 0b000_0_0110 = .fromI32 ∧
    decodeByte 0b000_0_0111 = .fromU32 ∧ decodeByte 0b000_0_1000 = .fromI64 ∧ decodeByte 0b000_0_1001 = .fromU64 := by
  decide

theorem test_decode_construction_floats :
    decodeByte 0b000_0_1010 = .fromF16 ∧ decodeByte 0b000_0_1011 = .fromF32 ∧ decodeByte 0b000_0_1100 = .fromF64 := by
  decide

theorem test_decode_extraction_integers :
    decodeByte 0b000_1_0001 = .toBool ∧ decodeByte 0b000_1_0010 = .toI8 ∧ decodeByte 0b000_1_0011 = .toU8 ∧
    decodeByte 0b000_1_0100 = .toI16 ∧ decodeByte 0b000_1_0101 = .toU16 ∧ decodeByte 0b000_1_0110 = .toI32 ∧
    decodeByte 0b000_1_0111 = .toU32 ∧ decodeByte 0b000_1_1000 = .toI64 ∧ decodeByte 0b000_1_1001 = .toU64 := by
  decide

theorem test_decode_extraction_floats :
    decodeByte 0b000_1_1010 = .toF16 ∧ decodeByte 0b000_1_1011 = .toF32 ∧ decodeByte 0b000_1_1100 = .toF64 := by
  decide

theorem test_decode_no_conversion :
    decodeByte 0b000_0_0000 = .fromNull ∧ decodeByte 0b000_1_0000 = .toNull ∧ decodeByte 0b000_0_1101 = .fromDec ∧
    decodeByte 0b000_1_1101 = .toDec ∧ decodeByte 0b000_1_1110 = .toStr := by decide

/-- The rows of section 2.5: `0x20` is not `from_null`, `0x24` not `from_i16`, `0x4D` not `from_dec`, `0x96` not `to_i32`. -/
theorem test_decode_reserved :
    decodeByte 0b000_0_1110 = .reserved0E ∧ decodeByte 0b000_0_1111 = .reserved0F ∧ decodeByte 0b000_1_1111 = .reserved1F ∧
    decodeByte 0b001_0_0000 = .reservedRsv001 0x20 ∧ decodeByte 0b001_0_0100 = .reservedRsv001 0x24 ∧
    decodeByte 0b010_0_1101 = .reservedRsv01 0x4D ∧ decodeByte 0b100_1_0110 = .reservedRsv1 0x96 ∧
    decodeByte 0b111_1_1111 = .reservedRsv1 0xFF := by decide

theorem test_decode_list :
    decode [0x05, 0xFF] = .ok (.fromU16, [0xFF]) ∧ decode [] = .error .noCommandByte := ⟨rfl, rfl⟩

theorem test_decodeTableWord :
    decodeTableWord 8 0x1C = some .toF64 ∧ decodeTableWord 16 0x1C = none := by decide

/-! ### One response for each command -/

/-- `Q` holds one entry and the host takes its response at the next edge. -/
def holding (mode : IntPartMode) (cmd : Byte) (src : Bus) : State :=
  ⟨mode, 1, [⟨cmd, src⟩], false, none, [⟨cmd, src⟩], [], [⟨false, none, true, true⟩]⟩

/-- The responses delivered when a step has answered a next state. -/
def deliveredBy : Host.Outcome State Fault Refusal → Option (List Response)
  | .next s => some s.delivered
  | .fault _ => none
  | .refused _ => none

/-- The response to one command, as one step of the machine delivers it. -/
def run1 (cmd : Byte) (src : Bus) : Option (List Response) := deliveredBy (step (holding .truncTowardZero cmd src))

-- 2.1 and R59 to R67
theorem test_from_bool : run1 0x01 0xFFFFFFFFFFFFFFFE = some [⟨0, .ok, false⟩] ∧
    run1 0x01 0xFFFFFFFFFFFFFFFF = some [⟨0x10000, .ok, false⟩] := by decide
theorem test_from_i8 : run1 0x02 0x80 = some [⟨0xFF800000, .ok, false⟩] := by decide
theorem test_from_u8 : run1 0x03 0xABCDEF01234567FF = some [⟨0xFF0000, .ok, false⟩] := by decide
theorem test_from_i16 : run1 0x04 0xFF16 = some [⟨0xFF160000, .ok, false⟩] := by decide
theorem test_from_u16 : run1 0x05 0xFFFF = some [⟨0xFFFF0000, .ok, false⟩] := by decide
theorem test_from_i32 : run1 0x06 0x12345678 = some [⟨0x56780000, .ok, false⟩] := by decide
theorem test_from_u32 : run1 0x07 0xFFFF8000 = some [⟨0x80000000, .ok, false⟩] := by decide
theorem test_from_i64 : run1 0x08 0x123456789ABCDEF0 = some [⟨0xDEF00000, .ok, false⟩] := by decide
theorem test_from_u64 : run1 0x09 0x8000000000000000 = some [⟨0, .ok, false⟩] := by decide

-- 2.2 and R74 to R76: ties to even, the largest operand in range; of an operand out of range only `status` and `oor`
theorem test_from_f16 : run1 0x0A 0x8180 = some [⟨0xFFFFFFFE, .ok, false⟩] ∧ run1 0x0A 0x0280 = some [⟨2, .ok, false⟩] := by
  decide
theorem test_from_f32 : run1 0x0B 0x3DCCCCCD = some [⟨0x199A, .ok, false⟩] ∧
    run1 0x0B 0xC7000000 = some [⟨0x80000000, .ok, false⟩] := by decide
theorem test_from_f64 : run1 0x0C 0x40DFFFFFFFDFFFFF = some [⟨0x7FFFFFFF, .ok, false⟩] ∧
    run1 0x0C 0xC0E0000000100000 = some [⟨0x80000000, .ok, false⟩] := by decide
theorem test_from_float_out_of_range :
    (run1 0x0A 0x7800).map (·.map fun r => (r.status, r.oor)) = some [(.ok, true)] ∧
    (run1 0x0B 0x7FC00000).map (·.map fun r => (r.status, r.oor)) = some [(.ok, true)] ∧
    (run1 0x0C 0x40DFFFFFFFE00000).map (·.map fun r => (r.status, r.oor)) = some [(.ok, true)] := by decide

-- 2.3 and R82 to R90; the last theorem under `Floor`
theorem test_to_bool : run1 0x11 0x20000 = some [⟨1, .ok, false⟩] ∧ run1 0x11 0xFFFFFFFF00000000 = some [⟨0, .ok, false⟩] := by
  decide
theorem test_to_i8 : run1 0x12 0xFEDCBA98 = some [⟨0xDD, .ok, false⟩] := by decide
theorem test_to_u8 : run1 0x13 0x0100C000 = some [⟨0, .ok, false⟩] := by decide
theorem test_to_i16 : run1 0x14 0x80000001 = some [⟨0x8001, .ok, false⟩] := by decide
theorem test_to_u16 : run1 0x15 0x80000000 = some [⟨0x8000, .ok, false⟩] := by decide
theorem test_to_i32 : run1 0x16 0xFEDCBA98 = some [⟨0xFFFFFEDD, .ok, false⟩] := by decide
theorem test_to_u32 : run1 0x17 0x80000000 = some [⟨0xFFFF8000, .ok, false⟩] := by decide
theorem test_to_i64 : run1 0x18 0xFFFFFFFF = some [⟨0, .ok, false⟩] := by decide
theorem test_to_u64 : run1 0x19 0x89ABCDEF = some [⟨0xFFFFFFFFFFFF89AC, .ok, false⟩] := by decide
theorem test_floor_mode :
    deliveredBy (step (holding .floor 0x19 0x89ABCDEF)) = some [⟨0xFFFFFFFFFFFF89AB, .ok, false⟩] ∧
    deliveredBy (step (holding .floor 0x12 0xFFFD8000)) = some [⟨0xFD, .ok, false⟩] := by decide

-- 2.4 and R94 to R96
theorem test_to_f16 : run1 0x1A 0x1006 = some [⟨0x2C02, .ok, false⟩] ∧ run1 0x1A 0x7FF80000 = some [⟨0x7800, .ok, false⟩] := by
  decide
theorem test_to_f16_subnormal : run1 0x1A 0xFFFFFFFD = some [⟨0x8300, .ok, false⟩] := by decide
theorem test_to_f32 : run1 0x1B 0x12345678 = some [⟨0x4591A2B4, .ok, false⟩] ∧
    run1 0x1B 0x7FFFFFC0 = some [⟨0x47000000, .ok, false⟩] := by decide
theorem test_to_f64 : run1 0x1C 0x89ABCDEF = some [⟨0xC0DD950C84400000, .ok, false⟩] := by decide

-- 2.5: the commands that are no conversion
theorem test_null : run1 0x00 0x0123456789ABCDEF = some [⟨0, .invalidArgument, false⟩] ∧
    run1 0x10 0x10000 = some [⟨0, .invalidArgument, false⟩] := by decide
theorem test_unbuilt : run1 0x0D 0x0123456789ABCDEF = some [⟨0, .unimplemented, false⟩] ∧
    run1 0x1D 0x28000 = some [⟨0, .unimplemented, false⟩] ∧ run1 0x1E 0x28000 = some [⟨0, .unimplemented, false⟩] := by decide
theorem test_reserved : run1 0x0E 0 = some [⟨0, .invalidCast, false⟩] ∧ run1 0x0F 0 = some [⟨0, .invalidCast, false⟩] ∧
    run1 0x1F 0xDEADBEEF = some [⟨0, .invalidCast, false⟩] ∧ run1 0x20 0 = some [⟨0, .invalidCast, false⟩] ∧
    run1 0x4D 0 = some [⟨0, .invalidCast, false⟩] ∧ run1 0x80 0 = some [⟨0, .invalidCast, false⟩] := by decide

/-! ### The block: programs P3 and P5 -/

/-- `Q` full with `DEPTH = 2`, a third command at the port (P3 after `accept 2`). -/
def fullQueue (edges : List Edge) : State :=
  ⟨.truncTowardZero, 2, [⟨0x00, 0⟩, ⟨0x1F, 0xDEADBEEF⟩], false, some ⟨0x1D, 0x10000⟩,
    [⟨0x00, 0⟩, ⟨0x1F, 0xDEADBEEF⟩], [], edges⟩

/-- The queue and the waiting request of a next state. -/
def queueOf : Host.Outcome State Fault Refusal → Option (List Command × Option Command)
  | .next s => some (s.queue, s.waiting)
  | .fault _ => none
  | .refused _ => none

/-- A full queue accepts nothing, also at the edge at which a response leaves; the request goes on waiting. -/
theorem test_backpressure :
    queueOf (step (fullQueue [⟨false, some ⟨0x1D, 0x10000⟩, true, true⟩])) =
      some ([⟨0x1F, 0xDEADBEEF⟩], some ⟨0x1D, 0x10000⟩) := by decide

/-- With room the waiting request is accepted (P3, `accept 3`). -/
theorem test_accept :
    queueOf (step { fullQueue [⟨false, some ⟨0x1D, 0x10000⟩, false, false⟩] with queue := [⟨0x1F, 0xDEADBEEF⟩] }) =
      some ([⟨0x1F, 0xDEADBEEF⟩, ⟨0x1D, 0x10000⟩], none) := by decide

/-- Reset drops what is in flight, neither channel transfers at its edge, and the held request goes on waiting (P5, R24 (a),
R127). -/
theorem test_reset :
    step (fullQueue [⟨true, some ⟨0x1D, 0x10000⟩, true, true⟩]) =
      .next ⟨.truncTowardZero, 2, [], false, some ⟨0x1D, 0x10000⟩, [], [], []⟩ := rfl

/-- A host that changes a waiting request is outside the model, at a reset edge too; a request first presented at a reset edge
must be held from there on, since `req_ready = 0` at it (R24 (a), R128). -/
theorem test_request_not_held :
    step (fullQueue [⟨false, some ⟨0x1D, 0x10001⟩, false, false⟩]) = .refused .requestNotHeld ∧
    step (fullQueue [⟨true, none, false, false⟩]) = .refused .requestNotHeld ∧
    Host.Core.run Sys2Proof.core 2 { State.reset with
      edges := [⟨true, some ⟨0x02, 0x80⟩, false, false⟩, ⟨false, none, false, false⟩] } = .refused .requestNotHeld :=
  ⟨rfl, rfl, rfl⟩

/-- A command is run right after reset (the fetch of `withFetchWord`). -/
theorem test_withFetchWord_reset :
    deliveredBy (step (State.reset.withFetchWord 8 0x0E)) = some [⟨0, .invalidCast, false⟩] ∧
    deliveredBy (step (State.reset.withFetchWord 8 0x0A)) = some [⟨0, .ok, false⟩] := ⟨rfl, rfl⟩

/-- The bytes `to_double` and `convert_to I16` (R55, E23). -/
theorem test_alias_bytes : aliasByte .toDouble = 0x1C ∧ aliasByte (.convertTo .i16) = 0x14 := by decide

/-! ### Witnesses: for each obligation with hypotheses, a state and operands that meet them -/

theorem witness_OpcodeMap : 0x20 ≤ (0x20 : Byte).toNat ∧ 0x20 ≤ (0xFF : Byte).toNat := by decide
theorem witness_DecodeAndEncodeAgree :
    Instr.wellFormed .fromI8 = true ∧ (Instr.reservedRsv1 0x80).wellFormed = true ∧
      (Instr.reservedRsv01 0x7F).wellFormed = true ∧ (Instr.reservedRsv001 0x20).wellFormed = true := by decide

/-- An entry and no other: the hypothesis of every statement on a command's answer (`Answers`, EveryCommandAnswers, the
families' statements). -/
theorem witness_Answers (cmd : Byte) : (holding .floor cmd 7).queue = ⟨cmd, 7⟩ :: [] := rfl
theorem witness_EveryCommandFrame : ∃ t, exec .toI8 (holding .floor 0x12 7) = .next t := ⟨_, rfl⟩
theorem witness_NoAnswerFromEmptyQueue : State.reset.queue = [] := rfl
theorem witness_BitsAboveOperandIgnored :
    ∀ k, k < operandWidth .fromU8 → (0xABCDEF01234567FF : Bus).getLsbD k = (0xFF : Bus).getLsbD k := by decide
theorem witness_ResponseLayout_status : (answerOf .floor .toNull 0).status ≠ .ok := by decide
theorem witness_ResponseLayout_oor : (answerOf .floor .fromF16 0x7800).oor = true := by decide
theorem witness_ResponseLayout_above : resultWidth .toI8 ≤ 8 ∧ resultWidth .toU64 ≤ 64 ∧ resultWidth .toStr ≤ 0 := by decide
theorem witness_ReservedBytesAnswer :
    0x80 ≤ (0x80 : Byte).toNat ∧ 0x80 ≤ (0xFF : Byte).toNat ∧
    (0x40 ≤ (0x40 : Byte).toNat ∧ (0x40 : Byte).toNat < 0x80) ∧ (0x40 ≤ (0x7F : Byte).toNat ∧ (0x7F : Byte).toNat < 0x80) ∧
    (0x20 ≤ (0x20 : Byte).toNat ∧ (0x20 : Byte).toNat < 0x40) ∧ (0x20 ≤ (0x3F : Byte).toNat ∧ (0x3F : Byte).toNat < 0x40) := by
  decide
theorem witness_DispatchAgreesWithTyped : TypeToken.bool ≠ .null ∧ TypeToken.str ≠ .reserved15 := by decide
theorem witness_IntegerConstructionWraps : (Instr.fromU64, fun src : Bus => (src.toNat : Int)) ∈ integerSources := by
  simp [integerSources]
/-- A pattern under each clause of R49, at the ends of its range of `E`. -/
theorem witness_FloatFormatConstants :
    (floatExp .f16 0xFC01#16 = 2 ^ expWidth .f16 - 1 ∧ floatFrac .f16 0xFC01#16 ≠ 0) ∧
    (floatExp .f64 0xFFF0000000000000#64 = 2 ^ expWidth .f64 - 1 ∧ floatFrac .f64 0xFFF0000000000000#64 = 0) ∧
    floatExp .f32 0x807FFFFF#32 = 0 ∧
    (floatExp .f32 0x00800000#32 ≠ 0 ∧ floatExp .f32 0x00800000#32 ≠ 2 ^ expWidth .f32 - 1) ∧
    (floatExp .f16 0x7BFF#16 ≠ 0 ∧ floatExp .f16 0x7BFF#16 ≠ 2 ^ expWidth .f16 - 1) := by decide
theorem witness_TinyFloatsGiveZero :
    fval .f16 (0x8080#16) = some (-1 / 131072) ∧ |(-1 / 131072 : ℚ)| ≤ 1 / 131072 := by
  constructor
  · simp [fval, classify, floatExp, floatFrac, floatSign, expWidth, fracWidth, expBias]
    norm_num
  · rw [abs_le]
    constructor <;> norm_num
theorem witness_ShiftRoundingIsRational : (1 : Nat) ≤ 1 := le_rfl
theorem witness_IntegerRoundTripCondition :
    (Instr.fromU32, Instr.toU32, 32) ∈ integerTypes ∧ (Instr.fromI8, Instr.toI8, 8) ∈ integerTypes := by decide
theorem witness_ConstructionIdempotent :
    (Instr.fromBool, Instr.toBool, 1) ∈ (Instr.fromBool, Instr.toBool, 1) :: integerTypes := by decide
theorem witness_FloatExtractionClass : FloatFormat.f32 ≠ .f16 ∧ (1 : Raw) ≠ 0 := by decide
theorem witness_FloatExtractionMonotone : (0x80000000 : Raw).toInt ≤ (0x7FFFFFFF : Raw).toInt := by decide

/-- The edge at which the host of `fullQueue` takes a response and holds its request. -/
def takingEdge : Edge := ⟨false, some ⟨0x1D, 0x10000⟩, true, true⟩

/-- The edge at which it does not take the presented response. -/
def stallingEdge : Edge := ⟨false, some ⟨0x1D, 0x10000⟩, false, true⟩

/-- A state one short of full (`|Q| = DEPTH - 1`) whose host presents `from_i8 0x80`. -/
def oneShort : State :=
  ⟨.floor, 2, [⟨0x1F, 0⟩], true, none, [⟨0x1F, 0⟩], [], [⟨false, some ⟨0x02, 0x80⟩, false, false⟩]⟩

theorem witness_EdgeMovesBothChannels :
    (fullQueue [takingEdge]).edges = takingEdge :: [] ∧ takingEdge.rst = false ∧
      ∀ c, (fullQueue [takingEdge]).waiting = some c → takingEdge.req = some c := ⟨rfl, rfl, fun _ h => h⟩
/-- The same with `|Q|` below `DEPTH`, both channels moving: a request is presented and the presented response is taken. -/
theorem witness_EdgeMovesBothChannels_room :
    { oneShort with edges := [⟨false, some ⟨0x02, 0x80⟩, true, false⟩] }.queue.length < oneShort.depth ∧
      (oneShort.presenting || (⟨false, some ⟨0x02, 0x80⟩, true, false⟩ : Edge).present) = true ∧
      ∀ c, oneShort.waiting = some c → some ⟨0x02, 0x80⟩ = some c := ⟨by decide, rfl, fun _ h => nomatch h⟩
theorem witness_StepRunsDecodedCommand :
    (fullQueue [takingEdge]).edges = takingEdge :: [] ∧
    (fullQueue [takingEdge]).queue = ⟨0x00, 0⟩ :: [⟨0x1F, 0xDEADBEEF⟩] ∧ decodeByte 0x00 = .fromNull ∧
    takingEdge.rst = false ∧ (∀ c, (fullQueue [takingEdge]).waiting = some c → takingEdge.req = some c) ∧
    ((fullQueue [takingEdge]).presenting || takingEdge.present) = true ∧ takingEdge.rspReady = true :=
  ⟨rfl, rfl, by decide, rfl, fun _ h => h, rfl, rfl⟩
theorem witness_RespondDeliversOldest :
    (holding .floor 0x12 7).edges = ⟨false, none, true, true⟩ :: [] ∧
      (holding .floor 0x12 7).queue = ⟨0x12, 7⟩ :: [] ∧ (holding .floor 0x12 7).waiting = none := ⟨rfl, rfl, rfl⟩

theorem witness_AcceptAppends :
    oneShort.edges = ⟨false, some ⟨0x02, 0x80⟩, false, false⟩ :: [] ∧ oneShort.queue.length < oneShort.depth ∧
      (oneShort.presenting = true → oneShort.queue ≠ []) ∧ ∀ c, oneShort.waiting = some c → c = ⟨0x02, 0x80⟩ :=
  ⟨rfl, by decide, by decide, fun _ h => nomatch h⟩
theorem witness_ResetDropsEverything :
    (fullQueue [⟨true, some ⟨0x1D, 0x10000⟩, true, true⟩]).edges = ⟨true, some ⟨0x1D, 0x10000⟩, true, true⟩ :: [] ∧
      (⟨true, some ⟨0x1D, 0x10000⟩, true, true⟩ : Edge).rst = true ∧
      ∀ c, (fullQueue [⟨true, some ⟨0x1D, 0x10000⟩, true, true⟩]).waiting = some c → some ⟨0x1D, 0x10000⟩ = some c :=
  ⟨rfl, rfl, fun _ h => h⟩
/-- Presented by the edge's own bit, presented before and held, not presented yet, and reset. -/
theorem witness_PortsFollowState :
    (fullQueue []).rspValid takingEdge = true ∧ oneShort.rspValid ⟨false, none, false, false⟩ = true ∧
      (fullQueue []).rspValid ⟨false, none, false, false⟩ = false ∧ oneShort.rspValid ⟨true, none, true, true⟩ = false ∧
      (⟨true, none, true, true⟩ : Edge).rst = true := by decide
theorem witness_PresentedResponseHolds :
    (fullQueue [stallingEdge]).edges = stallingEdge :: [] ∧
    (fullQueue [stallingEdge]).rspValid stallingEdge = true ∧ stallingEdge.rspReady = false ∧
      (∃ t, step (fullQueue [stallingEdge]) = .next t) ∧ takingEdge.rst = false :=
  ⟨rfl, by decide, rfl, ⟨_, rfl⟩, rfl⟩
theorem witness_UnheldRequestRefused :
    (fullQueue [⟨false, none, true, true⟩]).edges = ⟨false, none, true, true⟩ :: [] ∧
    (fullQueue [⟨false, none, true, true⟩]).waiting = some ⟨0x1D, 0x10000⟩ ∧
      (⟨false, none, true, true⟩ : Edge).req ≠ some ⟨0x1D, 0x10000⟩ := ⟨rfl, rfl, by decide⟩
theorem witness_ResponseAlwaysEnabled : (fullQueue []).queue ≠ [] := by decide
theorem witness_DrainAnswersEveryCommand :
    (holding .floor 0x12 7).waiting = none ∧
      (holding .floor 0x12 7).edges =
        List.replicate (holding .floor 0x12 7).queue.length ⟨false, none, true, true⟩ ++ [] := ⟨rfl, rfl⟩
theorem witness_BackpressureReleases :
    (fullQueue [takingEdge]).queueOk ∧ (fullQueue [takingEdge]).edges = takingEdge :: [] ∧
      (fullQueue [takingEdge]).queue.length = (fullQueue [takingEdge]).depth ∧ takingEdge.rst = false ∧
      (∃ t, step (fullQueue [takingEdge]) = .next t) ∧
      ((fullQueue [takingEdge]).presenting || takingEdge.present) = true ∧ takingEdge.rspReady = true :=
  ⟨⟨by decide, by decide, by decide⟩, rfl, rfl, rfl, ⟨_, rfl⟩, rfl, rfl⟩
theorem witness_ParametersNeverChange : ∃ t, step (fullQueue [takingEdge]) = .next t := ⟨_, rfl⟩
theorem witness_ResponseDependsOnEntryAlone :
    (holding .floor 0x00 0).queue = ⟨0x00, 0⟩ :: [] ∧
    ({ fullQueue [] with intPartMode := .floor }).queue = ⟨0x00, 0⟩ :: [⟨0x1F, 0xDEADBEEF⟩] ∧
    (∃ t, exec (decodeByte 0x00) (holding .floor 0x00 0) = .next t) ∧
    ∃ t, exec (decodeByte 0x00) { fullQueue [] with intPartMode := .floor } = .next t := ⟨rfl, rfl, ⟨_, rfl⟩, ⟨_, rfl⟩⟩
theorem witness_StepKeepsQueueOk :
    (fullQueue [takingEdge]).queueOk ∧ ∃ t, step (fullQueue [takingEdge]) = .next t :=
  ⟨⟨by decide, by decide, by decide⟩, ⟨_, rfl⟩⟩
theorem witness_StepKeepsInOrder :
    (fullQueue [takingEdge]).inOrder ∧ ∃ t, step (fullQueue [takingEdge]) = .next t := ⟨⟨[], rfl, rfl⟩, ⟨_, rfl⟩⟩
theorem witness_RunObservesExec :
    (holding .floor 0x12 7).inOrder ∧ ∃ t, Host.Core.run Sys2Proof.core 1 (holding .floor 0x12 7) = .next t ∧ t.queue = [] :=
  ⟨⟨[], rfl, rfl⟩, ⟨_, rfl, rfl⟩⟩

end Sys2Proof.Tests
end

section
/-! PROOFS. The family of 00_scope.md: rounding to nearest even (R9) and the independence of a response (R11). -/

namespace Sys2Proof.Machine

open Sys2Proof

/-- Rounding to nearest even is determined by being near and being even on a tie: two distinct candidates would be
neighbours, both at distance one half, and so both even. -/
theorem eq_rneInt_of_near {x : ℚ} {n : ℤ} (near : |x - n| ≤ 1 / 2) (tie : |x - n| = 1 / 2 → n % 2 = 0) :
    n = rneInt x := by
  by_contra hne
  have hgap : (1 : ℚ) ≤ |(n : ℚ) - rneInt x| := by
    exact_mod_cast Int.one_le_abs (sub_ne_zero.mpr hne)
  have hsum : |(n : ℚ) - rneInt x| ≤ |x - n| + |x - rneInt x| := by
    simpa [abs_sub_comm] using abs_sub_le (n : ℚ) x (rneInt x)
  have hnear := rneInt_near x
  have hn : n % 2 = 0 := tie (by linarith)
  have hr : rneInt x % 2 = 0 := rneInt_tie_even (by linarith)
  have hle : |n - rneInt x| ≤ 1 := by
    have : |(n : ℚ) - rneInt x| ≤ 1 := by linarith
    exact_mod_cast this
  obtain ⟨hlo, hhi⟩ := abs_le.mp hle
  omega

/-- When `m / 2^k` lies halfway between two integers, `rne_shift` gives the even one. -/
theorem rneShift_tie_even {m k : Nat} (hk : 1 ≤ k)
    (tie : 2 * (rneShift m k * 2 ^ k) = 2 * m + 2 ^ k ∨ 2 * m = 2 * (rneShift m k * 2 ^ k) + 2 ^ k) :
    rneShift m k % 2 = 0 := by
  obtain ⟨j, rfl⟩ : ∃ j, k = j + 1 := ⟨k - 1, by omega⟩
  have hdiv : 2 ^ (j + 1) * (m / 2 ^ (j + 1)) + m % 2 ^ (j + 1) = m := Nat.div_add_mod _ _
  have hlt : m % 2 ^ (j + 1) < 2 ^ (j + 1) := Nat.mod_lt _ (by positivity)
  simp only [rneShift, Nat.shiftRight_eq_div_pow, Nat.add_sub_cancel] at tie ⊢
  generalize m / 2 ^ (j + 1) = q at *
  generalize m % 2 ^ (j + 1) = r at *
  rw [pow_succ, mul_comm (2 ^ j) 2] at hdiv hlt tie
  generalize 2 ^ j = p at *
  have hmul : q * (2 * p) = 2 * p * q := by ring
  split at tie
  · rename_i hup
    rw [add_mul, one_mul, hmul] at tie
    rw [if_pos hup]
    have hr : r = p := by omega
    omega
  · rename_i hdown
    rw [hmul] at tie
    rw [if_neg hdown]
    have hr : r = p := by omega
    omega

/-- `m / 2^k` is within one half of `n`, over the common denominator. -/
theorem abs_div_two_pow_sub_le_half_iff (m k n : Nat) :
    |(m : ℚ) / 2 ^ k - (n : ℤ)| ≤ 1 / 2 ↔
      2 * (n * 2 ^ k) ≤ 2 * m + 2 ^ k ∧ 2 * m ≤ 2 * (n * 2 ^ k) + 2 ^ k := by
  have hpos : (0 : ℚ) < 2 ^ k := by positivity
  rw [← Nat.cast_le (α := ℚ), ← Nat.cast_le (α := ℚ), Int.cast_natCast, div_sub' hpos.ne', abs_le, le_div_iff₀ hpos,
    div_le_iff₀ hpos]
  push_cast
  constructor <;> rintro ⟨hlo, hhi⟩ <;> constructor <;> linarith

/-- `m / 2^k` lies exactly one half below or above `n`, over the common denominator. -/
theorem abs_div_two_pow_sub_eq_half_iff (m k n : Nat) :
    |(m : ℚ) / 2 ^ k - (n : ℤ)| = 1 / 2 ↔
      2 * (n * 2 ^ k) = 2 * m + 2 ^ k ∨ 2 * m = 2 * (n * 2 ^ k) + 2 ^ k := by
  have hpos : (0 : ℚ) < 2 ^ k := by positivity
  rw [← Nat.cast_inj (R := ℚ), ← Nat.cast_inj (R := ℚ), Int.cast_natCast, div_sub' hpos.ne', abs_eq (by norm_num),
    div_eq_iff hpos.ne', div_eq_iff hpos.ne', or_comm]
  push_cast
  refine or_congr ?_ ?_ <;> constructor <;> intro h <;> linarith

/-- Settles O21: `rne_shift` is within one half of the quotient and even on a tie, which determines the rounding. -/
theorem shiftRoundingIsRational : Obligations.ShiftRoundingIsRational := by
  intro m k hk
  apply eq_rneInt_of_near
  · exact (abs_div_two_pow_sub_le_half_iff m k _).mpr (rneShift_near m k hk)
  · intro htie
    have heven : rneShift m k % 2 = 0 := rneShift_tie_even hk ((abs_div_two_pow_sub_eq_half_iff m k _).mp htie)
    exact_mod_cast heven

/-- A meaning, run by the oldest entry's own byte, delivers `Exec` of that entry: of the entry and the mode alone (R22). -/
theorem delivered_of_exec_decodeByte {s t : State} {c : Command} {rest : List Command} (hq : s.queue = c :: rest)
    (h : exec (decodeByte c.cmd) s = .next t) : t.delivered = s.delivered ++ [execCommand s.intPartMode c] := by
  rw [exec_decodeByte hq, Host.Outcome.next.injEq] at h
  rw [← h, State.answered_delivered]

/-- Settles O49: the common response is `Exec` of the shared oldest entry in the shared mode. -/
theorem responseDependsOnEntryAlone : Obligations.ResponseDependsOnEntryAlone := by
  intro s₁ s₂ t₁ t₂ c rest₁ rest₂ hq₁ hq₂ hmode h₁ h₂
  refine ⟨execCommand s₁.intPartMode c, delivered_of_exec_decodeByte hq₁ h₁, ?_⟩
  rw [hmode]
  exact delivered_of_exec_decodeByte hq₂ h₂

end Sys2Proof.Machine
end

section
/-! PROOFS. The family of 10_state.md: the data type (R14, R16), what every command leaves unchanged (R18, R22), the ports
(R19, R23), one clock edge (R21 to R24), and what every step keeps (R20, R26). -/

namespace Sys2Proof.Machine

open Sys2Proof

/-! ### The data type (R14, R16) -/

/-- A fixed-point value is its integer bits, read signed, and its fraction bits over `SCALE`. -/
theorem real_eq_intBits_add_fracBits (raw : Raw) :
    real raw = ((intBits raw).toInt : ℚ) + ((fracBits raw).toNat : ℚ) / 65536 := by
  rw [real, toInt_split, div_eq_iff (by norm_num), add_mul, div_mul_cancel₀ _ (by norm_num)]
  push_cast
  rfl

/-- Settles O32: the split is exact, and each part has its own range. -/
theorem realValueSplits : Obligations.RealValueSplits := by
  intro raw
  have hsplit := real_eq_intBits_add_fracBits raw
  obtain ⟨hlo, hhi⟩ := intBits_range raw
  have hfrac : (fracBits raw).toNat ≤ 65535 := Nat.le_of_lt_succ (fracBits_lt raw)
  have hlo' : (-32768 : ℚ) ≤ (intBits raw).toInt := by exact_mod_cast hlo
  have hhi' : ((intBits raw).toInt : ℚ) ≤ 32767 := by exact_mod_cast hhi
  have hfrac' : ((fracBits raw).toNat : ℚ) ≤ 65535 := by exact_mod_cast hfrac
  have hfrac0 : (0 : ℚ) ≤ (fracBits raw).toNat := Nat.cast_nonneg _
  refine ⟨hsplit, ?_, ?_⟩ <;> rw [hsplit] <;> linarith

/-- Distinct words have distinct values. -/
theorem real_inj {a b : Raw} : real a = real b ↔ a = b := by
  rw [real, real, div_left_inj' (by norm_num), Int.cast_inj, BitVec.toInt_inj]

/-- The order of values is the order of the words read signed. -/
theorem real_lt_real_iff {a b : Raw} : real a < real b ↔ a.toInt < b.toInt := by
  rw [real, real, div_lt_div_iff_of_pos_right (by norm_num), Int.cast_lt]

/-- Settles O33: `real` divides the signed reading by a positive constant. -/
theorem fixedOrderIsRealOrder : Obligations.FixedOrderIsRealOrder := by
  intro a b
  rw [real_inj, real_lt_real_iff]
  simp [fixedEq, fixedLt]

/-! ### The meaning of every command on every state (R18, R22) -/

/-- Settles O4: every meaning is the response transfer with the command's own response. -/
theorem everyCommandAnswers : Obligations.EveryCommandAnswers := by
  intro i s c src rest hq
  rw [exec_eq_respondWith, respondWith_cons hq]
  rfl

/-- Settles O5: a meaning that answers a next state has delivered the oldest entry's response. -/
theorem everyCommandFrame : Obligations.EveryCommandFrame := by
  intro i s t h
  obtain ⟨c, rest, hq, rfl⟩ := exec_next h
  exact ⟨rfl, rfl, rfl, rfl, rfl, ⟨c, hq⟩, _, rfl⟩

/-- Settles O6: every meaning is the response transfer, which faults on an empty `Q`. -/
theorem noAnswerFromEmptyQueue : Obligations.NoAnswerFromEmptyQueue := by
  intro i s hq
  rw [exec_eq_respondWith, respondWith_nil hq]

/-! ### The ports (R19, R23, R128) -/

theorem reqReady_iff {s : State} {rst : Bool} :
    s.reqReady rst = true ↔ s.queue.length < s.depth ∧ rst = false := by
  simp [State.reqReady, State.hasRoom]

theorem rspValid_iff {s : State} {e : Edge} :
    s.rspValid e = true ↔ s.queue ≠ [] ∧ (s.presenting = true ∨ e.present = true) ∧ e.rst = false := by
  simp [State.rspValid, and_assoc]

theorem rspOut_of_not_rspValid {s : State} {e : Edge} (h : s.rspValid e = false) : s.rspOut e = none := by
  simp [State.rspOut, h]

theorem rspOut_of_rspValid {s : State} {e : Edge} (h : s.rspValid e = true) :
    s.rspOut e = s.queue.head?.map (execCommand s.intPartMode) := by
  simp [State.rspOut, h]

/-- Settles O41: the ports are their definitions, and `rsp_valid` asks for an oldest entry. -/
theorem portsFollowState : Obligations.PortsFollowState := by
  intro s e
  refine ⟨reqReady_iff, rspValid_iff, ?_, rspOut_of_not_rspValid, ?_⟩
  · intro hrst
    simp [State.rspValid, hrst]
  · intro hv
    obtain ⟨c, rest, hq⟩ := List.exists_cons_of_ne_nil (rspValid_iff.mp hv).1
    exact ⟨c, rest, hq, by rw [rspOut_of_rspValid hv, hq]; rfl⟩

/-! ### One clock edge (R19, R21 to R24) -/

/-- With the oldest entry's response presented and taken, the response channel runs the command of its byte. -/
theorem responseChannel_of_taken {s : State} {e : Edge} {c : Command} {rest : List Command} (hq : s.queue = c :: rest)
    (hp : (s.presenting || e.present) = true) (hr : e.rspReady = true) :
    responseChannel e s = exec (decodeByte c.cmd) s := by
  simp only [responseChannel, hq, hp, hr, if_true]

/-- What the response channel does in full, field by field. -/
theorem responseChannel_eq_next (e : Edge) (s : State) :
    responseChannel e s = .next
      { s with
        queue := if (s.presenting || e.present) && e.rspReady then s.queue.tail else s.queue
        presenting := !s.queue.isEmpty && (s.presenting || e.present) && !e.rspReady
        delivered := s.delivered ++
          (if (s.presenting || e.present) && e.rspReady then
            (s.queue.head?.map (execCommand s.intPartMode)).toList else []) } := by
  obtain ⟨hq, hu⟩ | ⟨c, rest, hq, hp, hr, hu⟩ | ⟨hq, hp, hr, hu⟩ | ⟨hq, hp, hu⟩ := responseChannel_cases e s <;>
    rw [hu, Host.Outcome.next.injEq]
  case inl => simp [hq]
  case inr.inl => simp [State.answered, hq, hp, hr]
  case inr.inr.inl => simp [hq, hp, hr]
  case inr.inr.inr =>
    obtain ⟨hpres, hedge⟩ := Bool.or_eq_false_iff.mp hp
    apply State.eq_of_fields <;> simp [hpres, hedge]

/-- Settles O36: the response channel in full, then the request channel with the readiness from before the edge. -/
theorem edgeMovesBothChannels : Obligations.EdgeMovesBothChannels := by
  intro s e es he hrst hheld
  rw [step_of_held he (requestHeld_iff.mpr hheld), hrst, if_neg Bool.false_ne_true, responseChannel_eq_next,
    onNext_of_next, Host.Outcome.next.injEq]
  apply State.eq_of_fields <;> simp [State.reqReady, State.hasRoom]

/-- Settles O35: the edge in full, with nothing presented on the request channel. -/
theorem respondDeliversOldest : Obligations.RespondDeliversOldest := by
  intro s es c rest he hq hw
  rw [edgeMovesBothChannels s _ es he rfl (by simp [hw])]
  simp [hq]

/-- Settles O38: the edge in full, with no response taken. -/
theorem acceptAppends : Obligations.AcceptAppends := by
  intro s es b src he hroom hpres hw
  have hheld : ∀ c, s.waiting = some c → some (⟨b, src⟩ : Command) = some c := fun c hc => by rw [hw c hc]
  have hkeep : (!s.queue.isEmpty && s.presenting) = s.presenting := by
    cases hp : s.presenting with
    | false => simp
    | true => simp [hpres hp]
  rw [edgeMovesBothChannels s _ es he rfl hheld]
  simp [hroom, hkeep]

/-- Settles O37: the taken response is that of the command the oldest entry's byte decodes to. -/
theorem stepRunsDecodedCommand : Obligations.StepRunsDecodedCommand := by
  rintro s e es b src rest i he hq rfl hrst hheld hp hr
  rw [step_of_held he (requestHeld_iff.mpr hheld), hrst, if_neg Bool.false_ne_true,
    responseChannel_of_taken (s := { s with edges := es }) hq hp hr]
  simp [State.reqReady, State.hasRoom]

/-- Settles O43: a request that waits and is not presented again is not held. -/
theorem unheldRequestRefused : Obligations.UnheldRequestRefused := by
  intro s e es c he hw hreq
  apply step_of_not_held he
  rw [← Bool.not_eq_true, requestHeld_iff]
  exact fun hheld => hreq (hheld c hw)

/-- If a step at an edge answers a next state, the host held its request. -/
theorem requestHeld_of_step_next {s t : State} {e : Edge} {es : List Edge} (he : s.edges = e :: es)
    (h : step s = .next t) : s.requestHeld e = true := by
  by_contra hno
  rw [step_of_not_held he (eq_false_of_ne_true hno)] at h
  cases h

/-- A step at which a presented response is not taken goes on presenting it, and `Q` grows at the young end only. -/
theorem step_next_of_not_taken {s t : State} {e : Edge} {es : List Edge} (he : s.edges = e :: es)
    (hv : s.rspValid e = true) (hr : e.rspReady = false) (h : step s = .next t) :
    t.intPartMode = s.intPartMode ∧ t.presenting = true ∧ ∃ added, t.queue = s.queue ++ added := by
  obtain ⟨hq, hp, hrst⟩ := rspValid_iff.mp hv
  have hheld := requestHeld_iff.mp (requestHeld_of_step_next he h)
  rw [edgeMovesBothChannels s e es he hrst hheld, Host.Outcome.next.injEq] at h
  subst h
  refine ⟨rfl, ?_, _, by simp only [hr, Bool.and_false, Bool.false_eq_true, if_false]; rfl⟩
  simpa [hr, hq] using hp

/-- Settles O42: the step goes on presenting, and the oldest entry and the mode, which give the ports, stay. -/
theorem presentedResponseHolds : Obligations.PresentedResponseHolds := by
  intro s t e es he hv hr h e' hrst'
  obtain ⟨hmode, hpres, added, hqueue⟩ := step_next_of_not_taken he hv hr h
  have hne : s.queue ≠ [] := (rspValid_iff.mp hv).1
  have hv' : t.rspValid e' = true := rspValid_iff.mpr ⟨by simp [hqueue, hne], .inl hpres, hrst'⟩
  refine ⟨hv', ?_⟩
  rw [rspOut_of_rspValid hv', rspOut_of_rspValid hv, hmode, hqueue, List.head?_append_of_ne_nil _ hne]

/-! ### What every step keeps (R20, R23, R26) -/

/-- The response channel changes no parameter. -/
theorem responseChannel_parameters {e : Edge} {s u : State} (h : responseChannel e s = .next u) :
    u.intPartMode = s.intPartMode ∧ u.depth = s.depth := by
  rw [responseChannel_eq_next, Host.Outcome.next.injEq] at h
  subst h
  exact ⟨rfl, rfl⟩

/-- Settles O48: neither reset nor a channel changes a parameter. -/
theorem parametersNeverChange : Obligations.ParametersNeverChange := by
  intro s t h
  obtain ⟨-, rfl⟩ | ⟨e, es, -, -, ⟨-, rfl⟩ | ⟨-, u, hu, rfl⟩⟩ := step_next h
  · exact ⟨rfl, rfl⟩
  · simp
  · simpa using responseChannel_parameters hu

/-- The queue invariant does not speak of the edges to come. -/
theorem queueOk_withEdges {s : State} (h : s.queueOk) (es : List Edge) : State.queueOk { s with edges := es } := h

theorem State.queueOk.resetBlock {s : State} (h : s.queueOk) : s.resetBlock.queueOk :=
  ⟨h.1, Nat.zero_le _, nofun⟩

/-- The request channel keeps the queue invariant when it accepts only with room. -/
theorem State.queueOk.offer {s : State} (h : s.queueOk) {ready : Bool} (hroom : ready = true → s.queue.length < s.depth)
    (req : Option Command) : (s.offer ready req).queueOk := by
  obtain ⟨hdepth, hlen, hpres⟩ := h
  refine ⟨by simpa using hdepth, ?_, fun hp => ?_⟩
  · cases ready with
    | false => simpa using hlen
    | true =>
      have hadd : req.toList.length ≤ 1 := by cases req <;> simp
      have hlt := hroom rfl
      simp only [State.offer_queue, State.offer_depth, if_true, List.length_append]
      omega
  · rw [State.offer_presenting] at hp
    simp [hpres hp]

/-- The response channel never lengthens the queue. -/
theorem responseChannel_queue_length_le {e : Edge} {s u : State} (h : responseChannel e s = .next u) :
    u.queue.length ≤ s.queue.length := by
  rw [responseChannel_eq_next, Host.Outcome.next.injEq] at h
  subst h
  dsimp only
  split <;> simp

/-- After the response channel a response is presented only for an entry. -/
theorem responseChannel_presenting {e : Edge} {s u : State} (h : responseChannel e s = .next u)
    (hp : u.presenting = true) : u.queue ≠ [] := by
  rw [responseChannel_eq_next, Host.Outcome.next.injEq] at h
  subst h
  simp only [Bool.and_eq_true, Bool.not_eq_true', List.isEmpty_eq_false_iff] at hp
  obtain ⟨⟨hq, -⟩, hr⟩ := hp
  simpa [hr] using hq

theorem State.queueOk.responseChannel {e : Edge} {s u : State} (h : s.queueOk) (hu : responseChannel e s = .next u) :
    u.queueOk := by
  obtain ⟨hdepth, hlen, -⟩ := h
  have hd : u.depth = s.depth := (responseChannel_parameters hu).2
  exact ⟨hd ▸ hdepth, hd ▸ (responseChannel_queue_length_le hu).trans hlen, responseChannel_presenting hu⟩

/-- Settles O51: reset and both channels keep the invariant; a request is accepted only with room before the edge, and the
response channel takes none away. -/
theorem stepKeepsQueueOk : Obligations.StepKeepsQueueOk := by
  intro s t hs h
  obtain ⟨-, rfl⟩ | ⟨e, es, -, -, ⟨-, rfl⟩ | ⟨-, u, hu, rfl⟩⟩ := step_next h
  · exact hs
  · exact (queueOk_withEdges hs es).resetBlock.offer (ready := false) nofun _
  · apply ((queueOk_withEdges hs es).responseChannel hu).offer
    intro hroom
    rw [(responseChannel_parameters hu).2]
    exact (responseChannel_queue_length_le hu).trans_lt (of_decide_eq_true hroom)

/-- Settles O50: at reset `Q` is empty and nothing is presented, and the depth is a successor. -/
theorem resetQueueOk : Obligations.ResetQueueOk := ⟨Nat.succ_pos _, Nat.zero_le _, nofun⟩

end Sys2Proof.Machine
end

section
/-! PROOFS. The family of 20_memory.md: the responses are delivered in order, one for each accepted command (R34). -/

namespace Sys2Proof.Machine

open Sys2Proof

/-- The order invariant does not speak of the edges to come. -/
theorem inOrder_withEdges {s : State} (h : s.inOrder) (es : List Edge) : State.inOrder { s with edges := es } := h

/-- The order invariant does not speak of what is presented. -/
theorem inOrder_withPresenting {s : State} (h : s.inOrder) (p : Bool) : State.inOrder { s with presenting := p } := h

/-- Reset drops the queue together with both records (R127), so nothing is answered and nothing is in flight. -/
theorem State.inOrder_resetBlock (s : State) : s.resetBlock.inOrder := ⟨[], rfl, rfl⟩

/-- An accepted request joins the record and the young end of `Q` alike; the answered commands stay the same. -/
theorem State.inOrder.offer {s : State} (h : s.inOrder) (ready : Bool) (req : Option Command) :
    (s.offer ready req).inOrder := by
  obtain ⟨done, hacc, hdel⟩ := h
  exact ⟨done, by simp [hacc], by simp [hdel]⟩

/-- The oldest entry, answered by its own `Exec`, moves from those in flight to the end of those answered. -/
theorem State.inOrder.answered {s : State} (h : s.inOrder) {c : Command} {rest : List Command}
    (hq : s.queue = c :: rest) : (s.answered rest (execCommand s.intPartMode c)).inOrder := by
  obtain ⟨done, hacc, hdel⟩ := h
  exact ⟨done ++ [c], by simp [hacc, hq], by simp [hdel]⟩

/-- The response channel answers the oldest entry, or changes at most what is presented. -/
theorem State.inOrder.responseChannel {e : Edge} {s u : State} (h : s.inOrder)
    (hu : responseChannel e s = .next u) : u.inOrder := by
  obtain ⟨-, heq⟩ | ⟨c, rest, hq, -, -, heq⟩ | ⟨-, -, -, heq⟩ | ⟨-, -, heq⟩ := responseChannel_cases e s <;>
    rw [heq, Host.Outcome.next.injEq] at hu <;> subst hu
  case inl => exact inOrder_withPresenting h false
  case inr.inl => exact h.answered hq
  case inr.inr.inl => exact inOrder_withPresenting h true
  case inr.inr.inr => exact h

/-- Settles O53: reset starts the records anew, and each channel keeps the invariant, the response channel at the old end
of `Q` and the request channel at the young end. -/
theorem stepKeepsInOrder : Obligations.StepKeepsInOrder := by
  intro s t hs h
  obtain ⟨-, rfl⟩ | ⟨e, es, -, -, ⟨-, rfl⟩ | ⟨-, u, hu, rfl⟩⟩ := step_next h
  · exact hs
  · exact (State.inOrder_resetBlock _).offer false e.req
  · exact ((inOrder_withEdges hs es).responseChannel hu).offer _ e.req

end Sys2Proof.Machine
end

section
/-! PROOFS. The family of 30_encoding.md: the decoder and the encoder (R37 to R40, R50 to R55), where operands and results lie
(R41, R42), and the float formats (R45 to R49). -/

namespace Sys2Proof

/-! ### The fields of a command byte (R37 to R40) -/

@[simp] theorem TypeToken.ofBits_bits (t : TypeToken) : TypeToken.ofBits t.bits = t := by
  cases t <;> rfl

@[simp] theorem TypeToken.bits_ofBits (v : BitVec 4) : (TypeToken.ofBits v).bits = v := by
  revert v
  decide

@[simp] theorem cmdRsv_commandByte (dir : Bool) (t : TypeToken) : cmdRsv (commandByte dir t) = 0 := by
  rw [cmdRsv, commandByte, BitVec.extractLsb'_append_eq_left]
  rfl

@[simp] theorem cmdDir_commandByte (dir : Bool) (t : TypeToken) : cmdDir (commandByte dir t) = dir := by
  cases dir <;> cases t <;> rfl

@[simp] theorem cmdType_commandByte (dir : Bool) (t : TypeToken) : cmdType (commandByte dir t) = t.bits := by
  cases dir <;> cases t <;> rfl

/-- A byte is its three fields, side by side (R37). -/
theorem cmdFields_append (b : Byte) : cmdRsv b ++ (BitVec.ofBool (cmdDir b) ++ cmdType b) = b := by
  revert b
  decide

/-- A byte with `RSV = 000` is the byte of its direction and its token. -/
theorem commandByte_cmdFields {b : Byte} (h : cmdRsv b = 0) :
    commandByte (cmdDir b) (TypeToken.ofBits (cmdType b)) = b := by
  have hfields := cmdFields_append b
  rwa [h, ← TypeToken.bits_ofBits (cmdType b)] at hfields

/-- `RSV = 000` is the lowest 32 bytes. -/
theorem cmdRsv_eq_zero_iff {b : Byte} : cmdRsv b = 0 ↔ b.toNat < 0x20 := by
  have hb := b.isLt
  rw [cmdRsv, BitVec.toNat_eq, BitVec.extractLsb'_toNat, Nat.shiftRight_eq_div_pow]
  simp only [BitVec.ofNat_eq_ofNat, BitVec.toNat_ofNat]
  omega

/-! ### The decoder, by the fields (R53) -/

/-- The byte of a direction and a token decodes by that direction's column of R39. -/
theorem decodeByte_commandByte (dir : Bool) (t : TypeToken) :
    decodeByte (commandByte dir t) = if dir then decodeTo t else decodeFrom t := by
  simp [decodeByte]

theorem decodeByte_of_rsv_ne_zero {b : Byte} (h : cmdRsv b ≠ 0) : decodeByte b = decodeReserved b := if_neg h

/-- Every byte is the byte of a direction and a token, or has `RSV != 000`. -/
theorem eq_commandByte_or_rsv_ne_zero (b : Byte) : (∃ dir t, b = commandByte dir t) ∨ cmdRsv b ≠ 0 := by
  by_cases h : cmdRsv b = 0
  · exact .inl ⟨_, _, (commandByte_cmdFields h).symm⟩
  · exact .inr h

/-- A byte with `RSV != 000` falls in one of the three rows with open bits, and carries itself. -/
theorem decodeReserved_cases (b : Byte) :
    decodeReserved b = .reservedRsv1 b ∨ decodeReserved b = .reservedRsv01 b ∨ decodeReserved b = .reservedRsv001 b := by
  unfold decodeReserved
  split
  · exact .inl rfl
  · split
    · exact .inr (.inl rfl)
    · exact .inr (.inr rfl)

/-- The row a byte with `RSV != 000` falls in admits it: its highest 1 bit is that row's (R40). -/
theorem wellFormed_decodeReserved {b : Byte} (h : cmdRsv b ≠ 0) : (decodeReserved b).wellFormed = true := by
  unfold decodeReserved
  split_ifs <;> revert b <;> decide

/-! ### Decoding and encoding undo each other (R52) -/

/-- A row without open bits stands for one byte; a row with open bits carries its byte. -/
theorem decodeByte_encodeByte {i : Instr} (h : i.wellFormed = true) : decodeByte (encodeByte i) = i := by
  cases i
  case reservedRsv1 cmd => exact Laws.EncodeDecode.reservedRsv1 cmd h
  case reservedRsv01 cmd => exact Laws.EncodeDecode.reservedRsv01 cmd h
  case reservedRsv001 cmd => exact Laws.EncodeDecode.reservedRsv001 cmd h
  all_goals rfl

theorem encodeByte_decodeFrom (t : TypeToken) : encodeByte (decodeFrom t) = commandByte false t := by
  cases t <;> rfl

theorem encodeByte_decodeTo (t : TypeToken) : encodeByte (decodeTo t) = commandByte true t := by
  cases t <;> rfl

theorem encodeByte_decodeReserved (b : Byte) : encodeByte (decodeReserved b) = b := by
  obtain h | h | h := decodeReserved_cases b <;> rw [h] <;> rfl

theorem encodeByte_decodeByte (b : Byte) : encodeByte (decodeByte b) = b := by
  obtain ⟨dir, t, rfl⟩ | h := eq_commandByte_or_rsv_ne_zero b
  · cases dir <;> simp [decodeByte_commandByte, encodeByte_decodeFrom, encodeByte_decodeTo]
  · rw [decodeByte_of_rsv_ne_zero h, encodeByte_decodeReserved]

theorem wellFormed_decodeFrom (t : TypeToken) : (decodeFrom t).wellFormed = true := by
  cases t <;> rfl

theorem wellFormed_decodeTo (t : TypeToken) : (decodeTo t).wellFormed = true := by
  cases t <;> rfl

theorem wellFormed_decodeByte (b : Byte) : (decodeByte b).wellFormed = true := by
  obtain ⟨dir, t, rfl⟩ | h := eq_commandByte_or_rsv_ne_zero b
  · cases dir <;> simp [decodeByte_commandByte, wellFormed_decodeFrom, wellFormed_decodeTo]
  · rw [decodeByte_of_rsv_ne_zero h, wellFormed_decodeReserved h]

/-- Settles O2: a command is one byte, and on bytes the decoder and the encoder undo each other. -/
theorem decodeAndEncodeAgree : Obligations.DecodeAndEncodeAgree := by
  refine ⟨fun i rest h => ?_, fun b => ⟨wellFormed_decodeByte b, ?_⟩⟩
  · simp [encode, decode, decodeByte_encodeByte h]
  · simp [encode, encodeByte_decodeByte]

/-- Settles O1: the lowest 32 bytes run through both columns of R39; the others have `RSV != 000`. -/
theorem opcodeMap : Obligations.OpcodeMap := by
  refine ⟨rfl, fun b hb => ?_⟩
  have hrsv : cmdRsv b ≠ 0 := fun h => absurd (cmdRsv_eq_zero_iff.mp h) (Nat.not_lt.mpr hb)
  rw [decodeByte_of_rsv_ne_zero hrsv]
  exact decodeReserved_cases b

end Sys2Proof

namespace Sys2Proof.Machine

open Sys2Proof

/-- `0x10 | TYPE` is the byte with `DIR = 1` of the token (R55). -/
theorem aliasByte_convertTo (t : TypeToken) : aliasByte (.convertTo t) = commandByte true t := by
  cases t <;> rfl

/-- Settles O3: the seven fixed names of R55 stand for encodings of well-formed commands, and `convert_to` the byte of its token. -/
theorem aliasesNameCommands : Obligations.AliasesNameCommands := by
  refine ⟨decodeByte_encodeByte rfl, decodeByte_encodeByte rfl, decodeByte_encodeByte rfl, decodeByte_encodeByte rfl,
    decodeByte_encodeByte rfl, decodeByte_encodeByte rfl, decodeByte_encodeByte rfl, fun t => ?_⟩
  rw [aliasByte_convertTo, decodeByte_commandByte, if_pos rfl]

/-! ### The operand and the result on the buses (R41, R42) -/

/-- The response of a command is a function of its operand: what each command computes from it. -/
theorem answerOf_congr {mode : IntPartMode} {i : Instr} {a b : Bus}
    (h : operand (operandWidth i) a = operand (operandWidth i) b) : answerOf mode i a = answerOf mode i b := by
  cases i
  case fromBool | fromU8 | fromU16 | fromU32 | fromU64 =>
    exact congrArg (fun v => fromInteger (BitVec.toNat v)) h
  case fromI8 | fromI16 | fromI32 | fromI64 => exact congrArg (fun v => fromInteger (BitVec.toInt v)) h
  case fromF16 => exact congrArg (fromFloat .f16) h
  case fromF32 => exact congrArg (fromFloat .f32) h
  case fromF64 => exact congrArg (fromFloat .f64) h
  case toBool => exact congrArg (fun raw : Raw => okResponse (BitVec.ofBool (raw != 0))) h
  case toI8 | toU8 => exact congrArg (fun raw => okResponse (lowBits 8 (ipart mode raw))) h
  case toI16 | toU16 => exact congrArg (fun raw => okResponse (lowBits 16 (ipart mode raw))) h
  case toI32 | toU32 => exact congrArg (fun raw => okResponse (lowBits 32 (ipart mode raw))) h
  case toI64 | toU64 => exact congrArg (fun raw => okResponse (lowBits 64 (ipart mode raw))) h
  case toF16 => exact congrArg (fun raw => okResponse (toFloat .f16 raw)) h
  case toF32 => exact congrArg (fun raw => okResponse (toFloat .f32 raw)) h
  case toF64 => exact congrArg (fun raw => okResponse (toFloat .f64 raw)) h
  all_goals rfl

/-- Settles O7: buses that agree below the operand's width hold the same operand. -/
theorem bitsAboveOperandIgnored : Obligations.BitsAboveOperandIgnored :=
  fun _ _ _ _ h => answerOf_congr (operand_congr h)

/-- A float construction answers a value of 32 bits, or one out of range. -/
theorem fromFloat_cases (f : FloatFormat) (x : BitVec (floatWidth f)) :
    (∃ v : Raw, fromFloat f x = okResponse v) ∨ ∃ raw, fromFloat f x = oorResponse raw := by
  unfold fromFloat
  dsimp only
  split
  · exact .inr ⟨_, rfl⟩
  · exact .inl ⟨_, rfl⟩

/-- Every response is a value of the command's result width, or an error, or that of a float construction out of range. -/
theorem answerOf_cases (mode : IntPartMode) (i : Instr) (src : Bus) :
    (∃ v : BitVec (resultWidth i), answerOf mode i src = okResponse v) ∨
    (∃ st, answerOf mode i src = errorResponse st) ∨
    ∃ f raw, i = fromFloatInstr f ∧ answerOf mode i src = oorResponse raw := by
  cases i
  case fromF16 => exact (fromFloat_cases .f16 _).imp_right fun ⟨raw, h⟩ => .inr ⟨.f16, raw, rfl, h⟩
  case fromF32 => exact (fromFloat_cases .f32 _).imp_right fun ⟨raw, h⟩ => .inr ⟨.f32, raw, rfl, h⟩
  case fromF64 => exact (fromFloat_cases .f64 _).imp_right fun ⟨raw, h⟩ => .inr ⟨.f64, raw, rfl, h⟩
  case fromNull | toNull | fromDec | toDec | toStr | reserved0E | reserved0F | reserved1F | reservedRsv1 |
      reservedRsv01 | reservedRsv001 =>
    exact .inr (.inl ⟨_, rfl⟩)
  all_goals exact .inl ⟨_, rfl⟩

/-- Above a value's width the result bus is 0. -/
theorem okResponse_dst_getLsbD_of_ge {n k : Nat} (v : BitVec n) (h : n ≤ k) :
    (okResponse v).dst.getLsbD k = false := by
  simp [BitVec.getLsbD_of_ge v k h]

theorem resultWidth_fromFloatInstr (f : FloatFormat) : resultWidth (fromFloatInstr f) = 32 := by
  cases f <;> rfl

/-- Settles O8: each of the three forms of a response has the layout. -/
theorem responseLayout : Obligations.ResponseLayout := by
  intro i mode src
  obtain ⟨v, h⟩ | ⟨st, h⟩ | ⟨f, raw, rfl, h⟩ := answerOf_cases mode i src <;> rw [h]
  · exact ⟨fun _ hk => okResponse_dst_getLsbD_of_ge v hk, fun hst => absurd rfl hst, nofun⟩
  · exact ⟨fun _ _ => BitVec.getLsbD_zero, fun _ => ⟨rfl, rfl⟩, nofun⟩
  · refine ⟨fun k hk => ?_, fun hst => absurd rfl hst, fun _ => ⟨rfl, ?_⟩⟩
    · rw [resultWidth_fromFloatInstr] at hk
      exact okResponse_dst_getLsbD_of_ge raw hk
    · cases f <;> simp [fromFloatInstr]

/-! ### The float formats (R45 to R49) -/

/-- The exponents of a zero or a subnormal and of a NaN or an infinity differ in every format. -/
theorem two_pow_expWidth_sub_one_ne_zero (f : FloatFormat) : 2 ^ expWidth f - 1 ≠ 0 := by
  cases f <;> decide

/-- The sign of a value as R49 writes it. -/
theorem neg_one_pow_sign (neg : Bool) : (-1 : ℚ) ^ neg.toNat = if neg then -1 else 1 := by
  cases neg <;> simp

section classes

variable {f : FloatFormat} {x : BitVec (floatWidth f)}

/-- `E` all ones and `M != 0`: a NaN (R49). -/
theorem classify_eq_nan (he : floatExp f x = 2 ^ expWidth f - 1) (hm : floatFrac f x ≠ 0) : classify f x = .nan := by
  simp [classify, he, hm]

/-- `E` all ones and `M = 0`: an infinity (R49). -/
theorem classify_eq_infinity (he : floatExp f x = 2 ^ expWidth f - 1) (hm : floatFrac f x = 0) :
    classify f x = .infinity (floatSign f x) := by
  simp [classify, he, hm]

theorem fval_of_nan (h : classify f x = .nan) : fval f x = none := by
  simp [fval, h]

theorem fval_of_infinity {neg : Bool} (h : classify f x = .infinity neg) : fval f x = none := by
  simp [fval, h]

/-- The value of a zero or a subnormal (R49). -/
theorem fval_of_exp_zero (he : floatExp f x = 0) :
    fval f x = some ((-1 : ℚ) ^ (floatSign f x).toNat * floatFrac f x * 2 ^ (1 - expBias f - fracWidth f)) := by
  rw [fval_of_exp_lt (he ▸ (two_pow_expWidth_sub_one_ne_zero f).symm), if_pos he, neg_one_pow_sign, mul_assoc]

/-- The value of a normal pattern (R49). -/
theorem fval_of_normal (h0 : floatExp f x ≠ 0) (h1 : floatExp f x ≠ 2 ^ expWidth f - 1) :
    fval f x = some ((-1 : ℚ) ^ (floatSign f x).toNat * (2 ^ fracWidth f + floatFrac f x) *
      2 ^ ((floatExp f x : ℤ) - expBias f - fracWidth f)) := by
  rw [fval_of_exp_lt h1, if_neg h0, neg_one_pow_sign, mul_assoc]
  push_cast
  rfl

end classes

/-- The largest finite `f16`, `S = 0`, `E = 30`, `M = 1023` (R46). -/
theorem fval_f16_largest : fval .f16 (0x7BFF#16) = some 65504 := by
  refine (fval_of_normal (f := .f16) (by decide) (by decide)).trans ?_
  change some ((-1 : ℚ) ^ 0 * (2 ^ 10 + (1023 : ℕ)) * 2 ^ (((30 : ℕ) : ℤ) - 15 - (10 : ℕ))) = _
  norm_num

/-- The smallest normal `f16`, `S = 0`, `E = 1`, `M = 0` (R46). -/
theorem fval_f16_smallest_normal : fval .f16 (0x0400#16) = some (1 / 2 ^ 14) := by
  refine (fval_of_normal (f := .f16) (by decide) (by decide)).trans ?_
  change some ((-1 : ℚ) ^ 0 * (2 ^ 10 + (0 : ℕ)) * 2 ^ (((1 : ℕ) : ℤ) - 15 - (10 : ℕ))) = _
  norm_num

/-- The pattern 1 is the smallest subnormal, `2^(1 - bias - fw)` (R46 to R48). -/
theorem fval_one {f : FloatFormat} {n : Nat} (h : 1 - expBias f - fracWidth f = -(n : ℤ)) :
    fval f 1 = some (1 / 2 ^ n) := by
  have hs : floatSign f 1 = false := by cases f <;> rfl
  have he : floatExp f 1 = 0 := by cases f <;> rfl
  have hm : floatFrac f 1 = 1 := by cases f <;> rfl
  rw [fval_of_exp_zero he, hs, hm, h]
  simp

/-- Settles O17: the fields, widths and biases by computation, the values and the classes by R49's clauses. -/
theorem floatFormatConstants : Obligations.FloatFormatConstants := by
  refine ⟨fun _ => ⟨rfl, rfl, rfl⟩, fun _ => ⟨rfl, rfl, rfl⟩, fun _ => ⟨rfl, rfl, rfl⟩, ⟨rfl, rfl⟩, ⟨rfl, rfl⟩,
    ⟨rfl, rfl⟩, rfl, rfl, rfl, fval_f16_largest, fval_f16_smallest_normal, fval_one (f := .f16) rfl, rfl, rfl, rfl, rfl,
    fval_one (f := .f32) rfl, rfl, rfl, fval_one (f := .f64) rfl, fun f x => ⟨fun he hm => ?_, fun he hm => ?_, ?_, ?_⟩⟩
  · exact ⟨classify_eq_nan he hm, fval_of_nan (classify_eq_nan he hm)⟩
  · exact ⟨classify_eq_infinity he hm, fval_of_infinity (classify_eq_infinity he hm)⟩
  · exact fval_of_exp_zero
  · exact fval_of_normal

end Sys2Proof.Machine
end

section
/-! PROOFS. The family of 40_int_to_fixed.md: integer construction keeps the low 16 bits of the value above 16 zero bits
(R57, R59 to R67), and its real value is the operand's value wrapped to 16 signed bits (R58, R68). -/

namespace Sys2Proof.Machine

open Sys2Proof

/-- A command answers by its byte and its response function: the rest is what every command leaves unchanged. -/
theorem answers_of_answerOf {b : Byte} {i : Instr} {r : IntPartMode → Bus → Response} (hb : decodeByte b = i)
    (hr : ∀ mode src, answerOf mode i src = r mode src) : Answers b i r := by
  refine ⟨hb, fun s c src rest hq => ?_⟩
  rw [← hr]
  exact everyCommandAnswers i s c src rest hq

/-! ### The bits of an integer construction (R57) -/

/-- Multiplying by `SCALE` moves the low 16 bits into the integer bits; those above are lost (R57). -/
theorem lowBits_mul_scale (value : Int) : lowBits 32 (value * Config.scale) = lowBits 16 value ++ 0#16 := by
  apply BitVec.eq_of_toNat_eq
  have hhi := lowBits_toNat 16 value
  have hall := lowBits_toNat 32 (value * Config.scale)
  rw [BitVec.toNat_append, ← Nat.shiftLeft_add_eq_or_of_lt (BitVec.isLt _), Nat.shiftLeft_eq, BitVec.toNat_zero]
  simp only [Config.scale] at hall ⊢
  omega

theorem fromInteger_eq_okResponse_append (value : Int) : fromInteger value = okResponse (lowBits 16 value ++ 0#16) := by
  rw [fromInteger, lowBits_mul_scale]

/-- The response of an integer construction, by the low 16 bits of the value. -/
theorem fromInteger_of_lowBits {value : Int} {x : BitVec 16} (h : lowBits 16 value = x) :
    fromInteger value = ⟨(x ++ 0#16).setWidth 64, .ok, false⟩ := by
  rw [fromInteger_eq_okResponse_append, h, okResponse]

theorem operand_eq_extractLsb' {n : Nat} (hn : n ≤ 64) (src : Bus) : operand n src = src.extractLsb' 0 n :=
  BitVec.setWidth_eq_extractLsb' hn

/-- An operand of at least 16 bits, read unsigned, has the low 16 bits of the bus. -/
theorem fromInteger_operand_toNat {n : Nat} (hn : 16 ≤ n) (src : Bus) :
    fromInteger (operand n src).toNat = ⟨(src.extractLsb' 0 16 ++ 0#16).setWidth 64, .ok, false⟩ := by
  apply fromInteger_of_lowBits
  rw [lowBits, BitVec.ofInt_natCast, BitVec.ofNat_toNat, operand, BitVec.setWidth_setWidth_of_le _ hn,
    BitVec.setWidth_eq_extractLsb' (by decide)]

/-- Read signed, it has the same low 16 bits: a sign extension cut to 16 bits shows no sign. -/
theorem fromInteger_operand_toInt {n : Nat} (hn : 16 ≤ n) (src : Bus) :
    fromInteger (operand n src).toInt = ⟨(src.extractLsb' 0 16 ++ 0#16).setWidth 64, .ok, false⟩ := by
  apply fromInteger_of_lowBits
  rw [lowBits, ← BitVec.signExtend, BitVec.signExtend_eq_setWidth_of_le _ hn, operand,
    BitVec.setWidth_setWidth_of_le _ hn, BitVec.setWidth_eq_extractLsb' (by decide)]

/-- Settles O15: every source of at least 16 bits, signed or not, has the low 16 bits of the bus. -/
theorem wideSourcesKeepLow16 : Obligations.WideSourcesKeepLow16 :=
  ⟨answers_of_answerOf rfl fun _ => fromInteger_operand_toInt (by decide),
    answers_of_answerOf rfl fun _ => fromInteger_operand_toNat (by decide),
    answers_of_answerOf rfl fun _ => fromInteger_operand_toInt (by decide),
    answers_of_answerOf rfl fun _ => fromInteger_operand_toNat (by decide),
    answers_of_answerOf rfl fun _ => fromInteger_operand_toInt (by decide),
    answers_of_answerOf rfl fun _ => fromInteger_operand_toNat (by decide)⟩

/-- The Boolean operand is bit 0 alone (R43). -/
theorem operand_one (src : Bus) : operand 1 src = BitVec.ofBool (src.getLsbD 0) :=
  BitVec.setWidth_one

theorem answerFromBool_eq (src : Bus) :
    answerFromBool src = ⟨if src.getLsbD 0 then 0x10000 else 0, .ok, false⟩ := by
  rw [answerFromBool, operand_one]
  cases src.getLsbD 0 <;> rfl

/-- An 8-bit operand, read signed, is sign-extended into the integer bits (R60). -/
theorem answerFromI8_eq (src : Bus) :
    answerFromI8 src = ⟨((src.extractLsb' 0 8).signExtend 16 ++ 0#16).setWidth 64, .ok, false⟩ := by
  rw [answerFromI8, operand_eq_extractLsb' (by decide)]
  exact fromInteger_of_lowBits rfl

/-- Read unsigned, it is zero-extended into them (R61). -/
theorem answerFromU8_eq (src : Bus) :
    answerFromU8 src = ⟨(0#8 ++ (src.extractLsb' 0 8 ++ 0#16)).setWidth 64, .ok, false⟩ := by
  have hlow : lowBits 16 (src.extractLsb' 0 8).toNat = 0#8 ++ src.extractLsb' 0 8 := by
    rw [lowBits, BitVec.ofInt_natCast, BitVec.ofNat_toNat, BitVec.setWidth_eq_append (by decide), BitVec.cast_eq]
  rw [answerFromU8, operand_eq_extractLsb' (by decide), fromInteger_of_lowBits hlow, BitVec.append_assoc, BitVec.cast_eq]

/-- Settles O14: bit 0 by its two cases, the 8-bit operand by the extension to 16 bits its reading gives. -/
theorem byteSourcesShift : Obligations.ByteSourcesShift :=
  ⟨answers_of_answerOf rfl fun _ => answerFromBool_eq, answers_of_answerOf rfl fun _ => answerFromI8_eq,
    answers_of_answerOf rfl fun _ => answerFromU8_eq⟩

/-! ### The value of an integer construction (R57, R58, R68) -/

/-- Each construction of the table is the family rule on the integer the table reads. -/
theorem answerOf_of_mem_integerSources {p : Instr × (Bus → Int)} (hp : p ∈ integerSources) (mode : IntPartMode)
    (src : Bus) : answerOf mode p.1 src = fromInteger (p.2 src) := by
  simp only [integerSources, List.mem_cons, List.not_mem_nil, or_false] at hp
  rcases hp with rfl | rfl | rfl | rfl | rfl | rfl | rfl | rfl | rfl <;>
    simp [answerOf, answerFromBool, answerFromI8, answerFromU8, answerFromI16, answerFromU16, answerFromI32,
      answerFromU32, answerFromI64, answerFromU64, operand_eq_extractLsb']

/-- A value of 32 bits on the result bus, read back as an operand. -/
theorem rawOf_okResponse (raw : Raw) : rawOf (okResponse raw).dst = raw := by
  rw [rawOf, okResponse_dst, ← BitVec.setWidth_eq_extractLsb' (by decide), BitVec.setWidth_setWidth_of_le _ (by decide),
    BitVec.setWidth_eq]

/-- The real value of a word without fraction bits is its integer bits, read signed. -/
theorem real_append_zero (x : BitVec 16) : real (x ++ 0#16) = x.toInt := by
  have hint : intBits (x ++ 0#16) = x := BitVec.extractLsb'_append_eq_left
  have hfrac : fracBits (x ++ 0#16) = 0#16 := BitVec.extractLsb'_append_eq_right
  rw [real_eq_intBits_add_fracBits, hint, hfrac]
  simp

/-- The real value of an integer construction is the value wrapped to 16 signed bits. -/
theorem real_fromInteger (value : Int) : real (rawOf (fromInteger value).dst) = (value.bmod 65536 : Int) := by
  rw [fromInteger_eq_okResponse_append, rawOf_okResponse, real_append_zero, lowBits, BitVec.toInt_ofInt]

theorem bmod_65536_eq_self_iff (value : Int) : value.bmod 65536 = value ↔ -32768 ≤ value ∧ value ≤ 32767 := by
  rw [Int.bmod_def]
  omega

theorem fromInteger_dst_toNat (value : Int) : ((fromInteger value).dst.toNat : Int) = value * 65536 % 2 ^ 32 := by
  rw [fromInteger, okResponse_dst, BitVec.toNat_setWidth_of_le (by decide), lowBits_toNat]
  rfl

/-- Settles O16: the family rule on any integer, and wrapping to 16 signed bits moves it by a multiple of 65536. -/
theorem integerConstructionWraps : Obligations.IntegerConstructionWraps := by
  intro p hp mode src
  rw [answerOf_of_mem_integerSources hp, real_fromInteger]
  generalize p.2 src = value
  refine ⟨rfl, rfl, fromInteger_dst_toNat value, ⟨-value.bdiv 65536, ?_⟩, ?_⟩
  · have hwrap : value.bmod 65536 = value + 65536 * -value.bdiv 65536 := by
      rw [Int.bmod_eq_self_sub_mul_bdiv, mul_neg, sub_eq_add_neg]
      rfl
    exact_mod_cast hwrap
  · rw [Int.cast_inj]
    exact bmod_65536_eq_self_iff value

end Sys2Proof.Machine
end

section
/-! PROOFS. The family of 41_float_to_fixed.md: float construction is the exact product with 65536 rounded to nearest even
(R69 to R73), the interval on which its guard stays silent (R78), and the operands that give zero (R77). -/

namespace Sys2Proof.Machine

open Sys2Proof

/-! ### Rounding to nearest even (R9) -/

/-- Rounding to nearest even is symmetric about 0, so rounding the magnitude and then giving it the sign is rounding (R71). -/
theorem rneInt_neg (x : ℚ) : rneInt (-x) = -rneInt x := by
  have hdist : |-x - ((-rneInt x : ℤ) : ℚ)| = |x - rneInt x| := by
    rw [Int.cast_neg, neg_sub_neg, abs_sub_comm]
  refine (eq_rneInt_of_near ?_ fun htie => ?_).symm
  · exact hdist ▸ rneInt_near x
  · have heven := rneInt_tie_even (hdist ▸ htie)
    omega

/-- An even `k` is reached from one half below on, since the tie goes to it. -/
theorem le_rneInt_iff_of_even {k : ℤ} (hk : k % 2 = 0) (x : ℚ) : k ≤ rneInt x ↔ (k : ℚ) - 1 / 2 ≤ x := by
  obtain ⟨hlo, hhi⟩ := abs_le.mp (rneInt_near x)
  constructor
  · intro h
    have : (k : ℚ) ≤ rneInt x := mod_cast h
    linarith
  · intro hx
    by_contra! hlt
    have hle : (rneInt x : ℚ) ≤ k - 1 := mod_cast Int.le_sub_one_of_lt hlt
    have heven : rneInt x % 2 = 0 :=
      rneInt_tie_even (le_antisymm (rneInt_near x) (le_abs.mpr (.inl (by linarith))))
    have hgap : (rneInt x : ℚ) ≤ k - 2 := mod_cast (by omega : rneInt x ≤ k - 2)
    linarith

/-- Everything within one half of 0 rounds to 0, which is even. -/
theorem rneInt_eq_zero {x : ℚ} (h : |x| ≤ 1 / 2) : rneInt x = 0 :=
  (eq_rneInt_of_near (by simpa using h) fun _ => rfl).symm

/-! ### The rounded scaled integer (R71) -/

/-- The magnitude of R71, a left shift or a rounded right shift, is the exact product with 65536 rounded. -/
theorem scaledMagnitude_eq_rneInt (sig : Nat) (ex : ℤ) :
    (scaledMagnitude sig ex : ℤ) = rneInt ((sig : ℚ) * 2 ^ ex * 65536) := by
  have hprod : (sig : ℚ) * 2 ^ ex * 65536 = sig * 2 ^ (ex + 16) := by
    rw [zpow_add₀ two_ne_zero, mul_assoc]
    norm_num
  rw [hprod]
  unfold scaledMagnitude
  generalize ex + 16 = sh
  obtain ⟨k, rfl | rfl⟩ := sh.eq_nat_or_neg
  · have hint : (sig : ℚ) * 2 ^ (k : ℤ) = ((sig * 2 ^ k : ℕ) : ℤ) := by simp
    rw [hint, rneInt_intCast]
    simp [Nat.shiftLeft_eq]
  · obtain rfl | hk := k.eq_zero_or_pos
    · simpa using (rneInt_intCast sig).symm
    · rw [zpow_neg, zpow_natCast, ← div_eq_mul_inv, ← shiftRoundingIsRational sig k hk]
      simp [hk.ne']

/-- The integer the guard judges is the operand's exact value times 65536, rounded; a NaN or an infinity has none (R69, R71). -/
theorem scaledInteger_classify (f : FloatFormat) (x : BitVec (floatWidth f)) :
    scaledInteger (classify f x) = (fval f x).map fun v => rneInt (v * 65536) := by
  unfold fval
  cases classify f x with
  | nan => rfl
  | infinity neg => rfl
  | finite neg sig ex =>
    cases neg
    · simp [scaledInteger, scaledMagnitude_eq_rneInt]
    · simp [scaledInteger, scaledMagnitude_eq_rneInt, rneInt_neg]

/-! ### The response (R72, R73) -/

theorem boundaryGuard_some (n : ℤ) :
    boundaryGuard (some n) = !decide (-2147483648 ≤ n ∧ n ≤ 2147483647) := by
  rw [Bool.decide_and]
  rfl

/-- The engine answers what R72 and R73 make of the exact value. -/
theorem fromFloat_eq_roundedResponse (f : FloatFormat) (x : BitVec (floatWidth f)) :
    fromFloat f x = roundedResponse f x := by
  rw [fromFloat, scaledInteger_classify, roundedResponse]
  cases fval f x with
  | none => rfl
  | some v =>
    rw [Option.map_some, boundaryGuard_some]
    by_cases hfits : -2147483648 ≤ rneInt (v * 65536) ∧ rneInt (v * 65536) ≤ 2147483647
    · simp [hfits, okResponse, lowBits]
    · simp [hfits, oorResponse]

/-- Settles O18: each construction command runs the engine on the low bits of the bus, and the engine rounds the exact product. -/
theorem floatConstructionRounds : Obligations.FloatConstructionRounds := by
  intro f
  cases f <;> exact answers_of_answerOf rfl fun _ _ => fromFloat_eq_roundedResponse _ _

/-- The mark stays 0 exactly on a finite operand whose rounded scaled integer fits 32 signed bits (R72). -/
theorem fromFloat_oor_eq_false_iff (f : FloatFormat) (x : BitVec (floatWidth f)) :
    (fromFloat f x).oor = false ↔
      ∃ v, fval f x = some v ∧ -2147483648 ≤ rneInt (v * 65536) ∧ rneInt (v * 65536) ≤ 2147483647 := by
  rw [fromFloat_eq_roundedResponse, roundedResponse]
  cases fval f x with
  | none => simp
  | some v =>
    by_cases hfits : -2147483648 ≤ rneInt (v * 65536) ∧ rneInt (v * 65536) ≤ 2147483647 <;> simp [hfits]

/-- Settles O19: `-2^31` and `2^31` are even, so the tie below each goes up to it: into the range at its lower end, out of
it at its upper. -/
theorem guardInterval : Obligations.GuardInterval := by
  intro f x
  rw [fromFloat_oor_eq_false_iff]
  refine exists_congr fun v => and_congr_right fun _ => and_congr ?_ ?_
  · rw [le_rneInt_iff_of_even (by decide)]
    norm_num
  · rw [← Int.lt_add_one_iff, ← not_le, le_rneInt_iff_of_even (by decide), not_le]
    norm_num

/-- Settles O20: the product with 65536 is within one half of 0. -/
theorem tinyFloatsGiveZero : Obligations.TinyFloatsGiveZero := by
  intro f x v hv htiny
  have hzero : rneInt (v * 65536) = 0 := rneInt_eq_zero <| by
    rw [abs_mul, abs_of_pos (by norm_num : (0 : ℚ) < 65536)]
    linarith
  simp [fromFloat_eq_roundedResponse, roundedResponse, hv, hzero]

end Sys2Proof.Machine
end

section
/-! PROOFS. The family of 42_fixed_to_int.md: the integer part of either mode (R80), the narrowing (R81 to R90), `to_bool`
(R82), and what construction and extraction by one type make of a value (R91). -/

namespace Sys2Proof.Machine

open Sys2Proof

/-! ### The integer part (R80) -/

/-- The floor of the real value is the integer bits, read signed: the fraction bits only add to them. -/
theorem floor_real (raw : Raw) : ⌊real raw⌋ = (intBits raw).toInt := by
  have hsplit := toInt_split raw
  have hfrac := fracBits_lt raw
  have hdiv : ⌊real raw⌋ = raw.toInt / 65536 := Rat.floor_intCast_div_natCast raw.toInt 65536
  omega

/-- The ceiling is one more, unless the fraction bits are 0. -/
theorem ceil_real (raw : Raw) : ⌈real raw⌉ = (intBits raw).toInt + if fracBits raw ≠ 0 then 1 else 0 := by
  have hsplit := toInt_split raw
  have hfrac := fracBits_lt raw
  have hdiv : ⌈real raw⌉ = -(-raw.toInt / 65536) := Rat.ceil_intCast_div_natCast raw.toInt 65536
  split_ifs with hne
  · have hpos : (fracBits raw).toNat ≠ 0 := fun h => hne (BitVec.eq_of_toNat_eq h)
    omega
  · have hzero : (fracBits raw).toNat = 0 := congrArg BitVec.toNat (not_not.mp hne)
    omega

/-- Bit 31 is the sign of the word. -/
theorem getLsbD_31_iff (raw : Raw) : raw.getLsbD 31 = true ↔ raw.toInt < 0 := by
  rw [← decide_eq_true_iff (p := raw.toInt < 0), ← BitVec.msb_eq_toInt, BitVec.msb_eq_getLsbD_last]

/-- Bit 31 is the sign of the real value. -/
theorem real_nonneg_iff (raw : Raw) : 0 ≤ real raw ↔ ¬raw.getLsbD 31 = true := by
  rw [getLsbD_31_iff, not_lt, real, le_div_iff₀ (by norm_num), zero_mul, Int.cast_nonneg_iff]

theorem ipart_floor (raw : Raw) : ipart .floor raw = ⌊real raw⌋ := (floor_real raw).symm

/-- Truncation is the floor of a value that is not negative and the ceiling of a negative one. -/
theorem ipart_truncTowardZero (raw : Raw) : ipart .truncTowardZero raw = truncRat (real raw) := by
  rw [truncRat, floor_real, ceil_real, ipart]
  by_cases hneg : raw.getLsbD 31 = true
  · rw [if_neg fun h => (real_nonneg_iff raw).mp h hneg]
    simp only [hneg, true_and]
  · rw [if_pos ((real_nonneg_iff raw).mpr hneg), if_neg fun h => hneg h.1, add_zero]

theorem ipart_eq_integerPart (mode : IntPartMode) (raw : Raw) : ipart mode raw = integerPart mode raw := by
  cases mode
  · exact ipart_truncTowardZero raw
  · exact ipart_floor raw

/-- Where the modes differ, by 1 (R80). -/
theorem ipart_truncTowardZero_eq_floor_add (raw : Raw) :
    ipart .truncTowardZero raw = ipart .floor raw + if raw.getLsbD 31 = true ∧ fracBits raw ≠ 0 then 1 else 0 := rfl

/-- The integer part lies in the range of 16 signed bits: only a negative one is moved up. -/
theorem ipart_range (mode : IntPartMode) (raw : Raw) : -32768 ≤ ipart mode raw ∧ ipart mode raw ≤ 32767 := by
  have hrange := intBits_range raw
  cases mode with
  | floor => exact hrange
  | truncTowardZero =>
    rw [ipart]
    split_ifs with hup
    · have hneg := (getLsbD_31_iff raw).mp hup.1
      rw [toInt_split] at hneg
      omega
    · omega

/-- Settles O24: the floor is the integer bits, and truncation moves a negative value with a fraction up by 1. -/
theorem integerPartOfEitherMode : Obligations.IntegerPartOfEitherMode := by
  intro raw
  refine ⟨ipart_truncTowardZero raw, ipart_floor raw, fun mode => ipart_range mode raw, ?_⟩
  rw [ipart_truncTowardZero_eq_floor_add, add_sub_cancel_left]
  rfl

/-! ### The extraction commands (R81 to R90) -/

theorem rawOperand_eq_rawOf (src : Bus) : rawOperand src = rawOf src := operand_eq_extractLsb' (by decide) src

/-- The narrowing, through the exact rational integer part. -/
theorem toInteger_eq (n : Nat) (mode : IntPartMode) (src : Bus) :
    toInteger n mode src = ⟨(BitVec.ofInt n (integerPart mode (rawOf src))).setWidth 64, .ok, false⟩ := by
  rw [toInteger, ipart_eq_integerPart, rawOperand_eq_rawOf, lowBits, okResponse]

/-- At the width of the bus there is nothing to extend. -/
theorem toInteger_64_eq (mode : IntPartMode) (src : Bus) :
    toInteger 64 mode src = ⟨BitVec.ofInt 64 (integerPart mode (rawOf src)), .ok, false⟩ := by
  rw [toInteger_eq, BitVec.setWidth_eq]

/-- Settles O23: the signed and the unsigned command of a width are one narrowing. -/
theorem integerExtractionNarrows : Obligations.IntegerExtractionNarrows :=
  ⟨answers_of_answerOf rfl (toInteger_eq 8), answers_of_answerOf rfl (toInteger_eq 8),
    answers_of_answerOf rfl (toInteger_eq 16), answers_of_answerOf rfl (toInteger_eq 16),
    answers_of_answerOf rfl (toInteger_eq 32), answers_of_answerOf rfl (toInteger_eq 32),
    answers_of_answerOf rfl toInteger_64_eq, answers_of_answerOf rfl toInteger_64_eq⟩

theorem answerToBool_eq (src : Bus) : answerToBool src = ⟨if rawOf src = 0 then 0 else 1, .ok, false⟩ := by
  rw [answerToBool, rawOperand_eq_rawOf]
  by_cases hzero : rawOf src = 0
  · rw [hzero]
    rfl
  · rw [if_neg hzero, bne_iff_ne.mpr hzero]
    rfl

/-- Settles O22: `to_bool` reads no mode. -/
theorem boolExtractionIsNonzero : Obligations.BoolExtractionIsNonzero :=
  answers_of_answerOf rfl fun _ => answerToBool_eq

/-! ### Construction and extraction by one type (R91) -/

/-- A result on the bus, read back as an operand of its own width. -/
theorem operand_okResponse {n : Nat} (hn : n ≤ 64) (v : BitVec n) : operand n (okResponse v).dst = v := by
  rw [operand, okResponse_dst, BitVec.setWidth_setWidth_of_le _ hn, BitVec.setWidth_eq]

/-- On the bus two results of one width are equal only when their values are. -/
theorem okResponse_dst_inj {n : Nat} (hn : n ≤ 64) {v w : BitVec n} :
    (okResponse v).dst = (okResponse w).dst ↔ v = w := by
  refine ⟨fun h => ?_, congrArg fun x => (okResponse x).dst⟩
  rw [← operand_okResponse hn v, h, operand_okResponse hn]

/-- The low bits of the low bits. -/
theorem setWidth_lowBits {m n : Nat} (h : m ≤ n) (k : Int) : (lowBits n k).setWidth m = lowBits m k := by
  apply BitVec.eq_of_toNat_eq
  rw [BitVec.toNat_setWidth, ← Int.natCast_inj, Int.natCast_mod, lowBits_toNat, lowBits_toNat]
  push_cast
  exact Int.emod_emod_of_dvd k (pow_dvd_pow 2 h)

/-- A word without fraction bits is its own integer part in either mode. -/
theorem ipart_append_zero (mode : IntPartMode) (x : BitVec 16) : ipart mode (x ++ 0#16) = x.toInt := by
  have hfloor : ipart .floor (x ++ 0#16) = x.toInt := by
    rw [ipart_floor, real_append_zero, Int.floor_intCast]
  have hfrac : fracBits (x ++ 0#16) = 0#16 := BitVec.extractLsb'_append_eq_right
  cases mode with
  | floor => exact hfloor
  | truncTowardZero => simp [ipart_truncTowardZero_eq_floor_add, hfloor, hfrac]

/-- Extraction after construction keeps the low 16 bits of the value and repeats bit 15 above them. -/
theorem toInteger_fromInteger (n : Nat) (mode : IntPartMode) (value : Int) :
    toInteger n mode (fromInteger value).dst = okResponse ((lowBits 16 value).signExtend n) := by
  rw [toInteger, rawOperand_eq_rawOf, fromInteger_eq_okResponse_append, rawOf_okResponse, ipart_append_zero]
  rfl

/-- Up to 16 bits this is the value's own low bits. -/
theorem signExtend_lowBits_of_le {n : Nat} (hn : n ≤ 16) (value : Int) :
    (lowBits 16 value).signExtend n = lowBits n value := by
  rw [BitVec.signExtend_eq_setWidth_of_le _ hn, setWidth_lowBits hn]

/-- Sign-extending the low 16 bits of a word gives its low bits exactly when those above bit 15 repeat it. -/
theorem signExtend_setWidth_eq_iff (n : Nat) (src : Bus) :
    (src.setWidth 16).signExtend n = src.setWidth n ↔ ∀ k, 16 ≤ k → k < n → src.getLsbD k = src.getLsbD 15 := by
  have hmsb : (src.setWidth 16).msb = src.getLsbD 15 := by
    simp [BitVec.msb_eq_getLsbD_last]
  rw [BitVec.eq_of_getLsbD_eq_iff]
  refine forall_congr' fun k => ?_
  rw [BitVec.getLsbD_signExtend, BitVec.getLsbD_setWidth, BitVec.getLsbD_setWidth, hmsb]
  by_cases hlow : k < 16
  · simp [hlow, Nat.not_le.mpr hlow]
  · simp +contextual [hlow, Nat.le_of_not_lt hlow, eq_comm]

/-- Each extraction of the table is the narrowing to the table's width. -/
theorem answerOf_extraction {p : Instr × Instr × Nat} (hp : p ∈ integerTypes) (mode : IntPartMode) (src : Bus) :
    answerOf mode p.2.1 src = toInteger p.2.2 mode src := by
  simp only [integerTypes, List.mem_cons, List.not_mem_nil, or_false] at hp
  rcases hp with rfl | rfl | rfl | rfl | rfl | rfl | rfl | rfl <;> rfl

/-- `read` takes an `n`-bit operand to an integer with those low `n` bits, as the signed and the unsigned
reading do (R44). -/
def IsReading {n : Nat} (read : BitVec n → Int) : Prop := ∀ x, lowBits n (read x) = x

theorem isReading_toInt {n : Nat} : IsReading (BitVec.toInt : BitVec n → Int) := fun _ => BitVec.ofInt_toInt

theorem isReading_toNat {n : Nat} : IsReading fun x : BitVec n => (x.toNat : Int) := fun x => by
  rw [lowBits, BitVec.ofInt_natCast, BitVec.ofNat_toNat, BitVec.setWidth_eq]

/-- Each construction of the table is the family rule on a reading of its operand. -/
theorem answerOf_construction {p : Instr × Instr × Nat} (hp : p ∈ integerTypes) (mode : IntPartMode) :
    ∃ read : BitVec p.2.2 → Int, IsReading read ∧
      ∀ src, answerOf mode p.1 src = fromInteger (read (operand p.2.2 src)) := by
  simp only [integerTypes, List.mem_cons, List.not_mem_nil, or_false] at hp
  rcases hp with rfl | rfl | rfl | rfl | rfl | rfl | rfl | rfl
  exacts [⟨_, isReading_toInt, fun _ => rfl⟩, ⟨_, isReading_toNat, fun _ => rfl⟩,
    ⟨_, isReading_toInt, fun _ => rfl⟩, ⟨_, isReading_toNat, fun _ => rfl⟩,
    ⟨_, isReading_toInt, fun _ => rfl⟩, ⟨_, isReading_toNat, fun _ => rfl⟩,
    ⟨_, isReading_toInt, fun _ => rfl⟩, ⟨_, isReading_toNat, fun _ => rfl⟩]

theorem width_le_of_mem_integerTypes : ∀ p ∈ integerTypes, p.2.2 ≤ 64 := by decide

/-- The Boolean round trip (R91 (a)): the two words `from_bool` builds are 0 and a word that is not. -/
theorem answerToBool_answerFromBool (src : Bus) :
    (answerToBool (answerFromBool src).dst).dst = (src.setWidth 1).setWidth 64 := by
  rw [answerFromBool_eq, answerToBool_eq, BitVec.setWidth_one]
  cases src.getLsbD 0 <;> rfl

/-- Settles O25: the word that comes back is the low 16 bits of `x`, sign-extended or cut to the type's width. -/
theorem integerRoundTripCondition : Obligations.IntegerRoundTripCondition := by
  refine ⟨fun p hp mode src => ?_, fun _ => answerToBool_answerFromBool⟩
  obtain ⟨read, hread, hfrom⟩ := answerOf_construction hp mode
  have hx := hread (operand p.2.2 src)
  rw [hfrom, answerOf_extraction hp, toInteger_fromInteger]
  refine (okResponse_dst_inj (width_le_of_mem_integerTypes p hp) (w := operand p.2.2 src)).trans ?_
  obtain hn | hn := le_or_gt p.2.2 16
  · simp [hn, signExtend_lowBits_of_le hn, hx]
  · rw [← setWidth_lowBits hn.le, hx, operand, BitVec.setWidth_setWidth_of_le _ hn.le, signExtend_setWidth_eq_iff]
    simp [Nat.not_le.mpr hn]

/-- Cutting a sign extension back gives the word extended. -/
theorem setWidth_signExtend_of_le {m n : Nat} (h : m ≤ n) (x : BitVec m) : (x.signExtend n).setWidth m = x := by
  rw [← BitVec.signExtend_eq_setWidth_of_le _ h, BitVec.signExtend, BitVec.toInt_signExtend_of_le h, BitVec.ofInt_toInt]

/-- Construction sees the low 16 bits of a value alone. -/
theorem fromInteger_congr {v w : Int} (h : lowBits 16 v = lowBits 16 w) : fromInteger v = fromInteger w := by
  rw [fromInteger_eq_okResponse_append, h, fromInteger_eq_okResponse_append]

/-- Reading back the low 16 bits of a value, cut or sign-extended to the type's width, and constructing again changes
nothing: a narrow operand comes back whole, a wide one with the same low 16 bits. -/
theorem fromInteger_read_signExtend {n : Nat} {read : BitVec n → Int} (hread : IsReading read) (x : BitVec n) :
    fromInteger (read ((lowBits 16 (read x)).signExtend n)) = fromInteger (read x) := by
  obtain hn | hn := le_total n 16
  · rw [signExtend_lowBits_of_le hn, hread]
  · apply fromInteger_congr
    rw [← setWidth_lowBits hn, hread, setWidth_signExtend_of_le hn]

/-- Settles O26: for Boolean the operand comes back whole, for an integer type with the bits construction sees. -/
theorem constructionIdempotent : Obligations.ConstructionIdempotent := by
  intro p hp mode src
  obtain rfl | hp := List.mem_cons.mp hp
  · refine answerOf_congr ((congrArg (operand 1) (answerToBool_answerFromBool src)).trans ?_)
    exact operand_okResponse (by decide) _
  · obtain ⟨read, hread, hfrom⟩ := answerOf_construction hp mode
    rw [hfrom, hfrom, answerOf_extraction hp, toInteger_fromInteger,
      operand_okResponse (width_le_of_mem_integerTypes p hp), fromInteger_read_signExtend hread]

end Sys2Proof.Machine
end

section
/-! PROOFS. The family of 43_fixed_to_float.md: the value of a float extraction is the operand rounded at its lowest kept bit
(R93), whence nearness (R92), class (R97), exactness (R98), round trip (R99) and monotonicity (R100). -/

namespace Sys2Proof.Machine

open Sys2Proof

/-! ### Rounding to nearest even among the integers (R9) -/

/-- No integer is nearer than the rounded one, and where another is equally near the rounded one is even. -/
theorem rneInt_nearest (x : ℚ) (k : ℤ) :
    |rneInt x - x| ≤ |k - x| ∧ (|rneInt x - x| = |k - x| → k ≠ rneInt x → rneInt x % 2 = 0) := by
  have hnear : |rneInt x - x| ≤ 1 / 2 := abs_sub_comm x _ ▸ rneInt_near x
  obtain rfl | hne := eq_or_ne k (rneInt x)
  · exact ⟨le_rfl, fun _ h => absurd rfl h⟩
  · have hgap : (1 : ℚ) ≤ |(k : ℚ) - rneInt x| := mod_cast Int.one_le_abs (sub_ne_zero.mpr hne)
    have hsum : |(k : ℚ) - rneInt x| ≤ |k - x| + |rneInt x - x| :=
      abs_sub_comm x (rneInt x : ℚ) ▸ abs_sub_le (k : ℚ) x (rneInt x)
    refine ⟨by linarith, fun heq _ => rneInt_tie_even ?_⟩
    rw [abs_sub_comm]
    linarith

/-- Dropping no bit changes nothing. -/
@[simp] theorem rneShift_zero (m : Nat) : rneShift m 0 = m := by
  simp [rneShift, Nat.mod_one]

/-- Rounding a quotient, also by `2^0` (R9). -/
theorem rneShift_eq_rneInt (m k : Nat) : (rneShift m k : ℤ) = rneInt ((m : ℚ) / 2 ^ k) := by
  obtain rfl | hk := k.eq_zero_or_pos
  · have hcast : (m : ℚ) / 2 ^ 0 = (m : ℤ) := by simp
    rw [hcast, rneInt_intCast, rneShift_zero]
  · exact shiftRoundingIsRational m k hk

theorem rneShift_eq_or (m k : Nat) : rneShift m k = m / 2 ^ k ∨ rneShift m k = m / 2 ^ k + 1 := by
  rw [← Nat.shiftRight_eq_div_pow]
  unfold rneShift
  dsimp only
  split
  · exact .inr rfl
  · exact .inl rfl

/-- Dropping `k` bits of a number of `w + k` bits and one more leaves `w` bits and one more, or carries out of the top. -/
theorem rneShift_bounds {m w k : Nat} (hlo : 2 ^ (w + k) ≤ m) (hhi : m < 2 ^ (w + k + 1)) :
    2 ^ w ≤ rneShift m k ∧ rneShift m k ≤ 2 ^ (w + 1) := by
  have hq_lo : 2 ^ w ≤ m / 2 ^ k := by
    rwa [Nat.le_div_iff_mul_le (by positivity), ← pow_add]
  have hq_hi : m / 2 ^ k < 2 ^ (w + 1) := by
    rwa [Nat.div_lt_iff_lt_mul (by positivity), ← pow_add, Nat.add_right_comm]
  obtain h | h := rneShift_eq_or m k <;> omega

/-! ### The operand rounded at its lowest kept bit (R93) -/

/-- How many low bits of a magnitude the format has no room for. -/
def droppedBits (f : FloatFormat) (mag : Nat) : Nat := Nat.log2 mag - fracWidth f

/-- The operand, in units of its lowest kept bit, rounded. -/
def roundedUnits (f : FloatFormat) (raw : Raw) : ℤ := rneInt ((raw.toInt : ℚ) / 2 ^ droppedBits f raw.toInt.natAbs)

/-- The rounded operand in steps of `1/65536`. -/
def roundedSteps (f : FloatFormat) (raw : Raw) : ℤ := roundedUnits f raw * 2 ^ droppedBits f raw.toInt.natAbs

theorem roundedSteps_of_droppedBits_zero {f : FloatFormat} {raw : Raw} (h : droppedBits f raw.toInt.natAbs = 0) :
    roundedSteps f raw = raw.toInt := by
  simp [roundedSteps, roundedUnits, h]

/-- Rounding the signed operand is rounding its magnitude and giving it the operand's sign. -/
theorem roundedUnits_eq_sign_mul (f : FloatFormat) (raw : Raw) :
    roundedUnits f raw =
      (if raw.getLsbD 31 then -1 else 1) * rneShift raw.toInt.natAbs (droppedBits f raw.toInt.natAbs) := by
  rw [roundedUnits, rneShift_eq_rneInt, ← Int.cast_natCast raw.toInt.natAbs]
  split_ifs with hneg
  · rw [Int.ofNat_natAbs_of_nonpos ((getLsbD_31_iff raw).mp hneg).le, Int.cast_neg, neg_div, rneInt_neg]
    ring
  · rw [Int.natAbs_of_nonneg (not_lt.mp (mt (getLsbD_31_iff raw).mpr hneg)), one_mul]

theorem natAbs_toInt_ne_zero {raw : Raw} (h : raw ≠ 0) : raw.toInt.natAbs ≠ 0 :=
  Int.natAbs_ne_zero.mpr fun h0 => h (BitVec.toInt_inj.mp h0)

/-- Zero has no bit to drop. -/
theorem ne_zero_of_droppedBits_pos {f : FloatFormat} {raw : Raw} (h : 0 < droppedBits f raw.toInt.natAbs) : raw ≠ 0 := by
  rintro rfl
  exact absurd h (by simp [droppedBits])

/-! ### The significand of a result (R93) -/

/-- The kept significand is the rounded magnitude, moved up to the top where it is short. -/
theorem keptSignificand_eq (f : FloatFormat) (mag : Nat) :
    keptSignificand f mag mag.log2 = rneShift mag (droppedBits f mag) * 2 ^ (fracWidth f - mag.log2) := by
  unfold keptSignificand droppedBits
  split_ifs with h
  · simp [Nat.sub_eq_zero_of_le h, Nat.shiftLeft_eq]
  · simp [Nat.sub_eq_zero_of_le (Nat.le_of_not_le h)]

/-- The kept significand has its highest bit at `fw`, or the rounding carried out of the top. -/
theorem keptSignificand_bounds (f : FloatFormat) {mag : Nat} (hmag : mag ≠ 0) :
    2 ^ fracWidth f ≤ keptSignificand f mag mag.log2 ∧ keptSignificand f mag mag.log2 ≤ 2 ^ (fracWidth f + 1) := by
  have hlo := Nat.log2_self_le hmag
  have hhi := Nat.lt_log2_self (n := mag)
  unfold keptSignificand
  generalize mag.log2 = p at *
  split_ifs with h
  · obtain ⟨j, hj⟩ := Nat.exists_eq_add_of_le h
    rw [hj, Nat.add_sub_cancel_left, Nat.shiftLeft_eq, Nat.add_right_comm, pow_add, pow_add _ (p + 1)]
    exact ⟨Nat.mul_le_mul_right _ hlo, Nat.mul_le_mul_right _ hhi.le⟩
  · obtain ⟨j, rfl⟩ := Nat.exists_eq_add_of_le (Nat.le_of_not_le h)
    rw [Nat.add_sub_cancel_left]
    exact rneShift_bounds hlo hhi

/-- The exponents of normal patterns run from `expMin` to `expBias`, which is at least the 15 of the largest magnitude `2^15`
(R97), and no format keeps fewer than 10 fraction bits. -/
theorem floatFormat_ranges (f : FloatFormat) :
    expMin f = 1 - expBias f ∧ 2 * expBias f + 2 = 2 ^ expWidth f ∧ 15 ≤ expBias f ∧ 10 ≤ fracWidth f := by
  cases f <;> decide

/-- The magnitude of a pattern that is no NaN and no infinity, by its fields (R49). -/
def fieldsValue (f : FloatFormat) (e m : Nat) : ℚ :=
  if e = 0 then (m : ℚ) * 2 ^ (1 - expBias f - fracWidth f)
  else ((2 ^ fracWidth f + m : Nat) : ℚ) * 2 ^ ((e : Int) - expBias f - fracWidth f)

theorem fval_packFloat {f : FloatFormat} {neg : Bool} {e m : Nat} (he : e < 2 ^ expWidth f - 1)
    (hm : m < 2 ^ fracWidth f) :
    fval f (packFloat f neg e m) = some ((if neg then -1 else 1) * fieldsValue f e m) := by
  have he' : e < 2 ^ expWidth f := by omega
  rw [fval_of_exp_lt (by rw [floatExp_packFloat he' hm]; exact he.ne), floatSign_packFloat he' hm,
    floatExp_packFloat he' hm, floatFrac_packFloat he' hm, fieldsValue]

/-- The fields `E`, `M` stand for the magnitude `mag / 65536` rounded at its lowest kept bit. -/
structure IsRounding (f : FloatFormat) (mag e m : Nat) : Prop where
  exp_lt : e < 2 ^ expWidth f - 1
  frac_lt : m < 2 ^ fracWidth f
  exp_ne_zero : f ≠ .f16 → e ≠ 0
  value : fieldsValue f e m = (rneShift mag (droppedBits f mag) * 2 ^ droppedBits f mag : Nat) / 65536
  frac_even : 0 < droppedBits f mag → rneShift mag (droppedBits f mag) % 2 = 0 → m % 2 = 0

theorem IsRounding.exp_lt_two_pow {f : FloatFormat} {mag e m : Nat} (h : IsRounding f mag e m) : e < 2 ^ expWidth f :=
  h.exp_lt.trans_le (Nat.sub_le _ _)

/-- A normal result is one of fields `E >= 1` and `M` with the exponent and the significand given, whether or not the
rounding carried out of the top. -/
theorem packNormal_eq_packFloat {f : FloatFormat} (neg : Bool) {e : ℤ} {sig : Nat} (hmin : expMin f ≤ e)
    (hmax : e ≤ expBias f) (hlo : 2 ^ fracWidth f ≤ sig) (hhi : sig ≤ 2 ^ (fracWidth f + 1))
    (hcarry : sig = 2 ^ (fracWidth f + 1) → e < expBias f) :
    ∃ E M : Nat, packNormal f neg e sig = packFloat f neg E M ∧ E ≠ 0 ∧ E < 2 ^ expWidth f - 1 ∧
      M < 2 ^ fracWidth f ∧ fieldsValue f E M = sig * 2 ^ (e - fracWidth f) ∧ (sig % 2 = 0 → M % 2 = 0) := by
  obtain ⟨hemin, hwidth, hbias, hfw⟩ := floatFormat_ranges f
  have htop : ((2 ^ expWidth f : Nat) : ℤ) = 2 * expBias f + 2 := by rw [hwidth]; norm_cast
  unfold packNormal
  split_ifs with h
  · have hlt := hcarry h
    have hE0 : (e + 1 + expBias f).toNat ≠ 0 := by omega
    refine ⟨_, _, rfl, hE0, by omega, by positivity, ?_, fun _ => rfl⟩
    rw [fieldsValue, if_neg hE0, Int.toNat_of_nonneg (by omega), h]
    push_cast
    rw [add_zero, ← zpow_natCast, ← zpow_natCast, ← zpow_add₀ two_ne_zero, ← zpow_add₀ two_ne_zero]
    congr 1
    push_cast
    ring
  · have hE0 : (e + expBias f).toNat ≠ 0 := by omega
    have hpow : 2 ^ (fracWidth f + 1) = 2 ^ fracWidth f * 2 := pow_succ _ _
    refine ⟨_, _, rfl, hE0, by omega, by omega, ?_, fun heven => ?_⟩
    · rw [fieldsValue, if_neg hE0, Int.toNat_of_nonneg (by omega), Nat.add_sub_cancel' hlo, add_sub_cancel_right]
    · have hdvd : 2 ^ fracWidth f % 2 = 0 := Nat.mod_eq_zero_of_dvd (dvd_pow_self 2 (by omega))
      omega

theorem toInt_range (raw : Raw) : -2147483648 ≤ raw.toInt ∧ raw.toInt ≤ 2147483647 :=
  ⟨BitVec.le_toInt raw, Int.le_of_lt_add_one (BitVec.toInt_lt (x := raw))⟩

theorem natAbs_toInt_le (raw : Raw) : raw.toInt.natAbs ≤ 2 ^ 31 := by
  have hrange := toInt_range raw
  omega

theorem log2_le_31 {mag : Nat} (h : mag ≤ 2 ^ 31) : mag.log2 ≤ 31 := by
  obtain rfl | hpos := mag.eq_zero_or_pos
  · decide
  · exact Nat.lt_succ_iff.mp ((Nat.log2_lt hpos.ne').mpr (by omega))

/-- Only `2^31` has its highest 1 bit at 31, and it is kept exactly. -/
theorem keptSignificand_of_log2_eq_31 (f : FloatFormat) {mag : Nat} (h0 : mag ≠ 0) (h : mag ≤ 2 ^ 31)
    (hp : mag.log2 = 31) : keptSignificand f mag mag.log2 = 2 ^ fracWidth f := by
  obtain rfl : mag = 2 ^ 31 := le_antisymm h (hp ▸ Nat.log2_self_le h0)
  rw [hp]
  cases f <;> rfl

/-- The kept significand at the place of its lowest bit is the rounded magnitude. -/
theorem keptSignificand_mul_zpow (f : FloatFormat) (mag : Nat) :
    (keptSignificand f mag mag.log2 : ℚ) * 2 ^ ((mag.log2 : ℤ) - 16 - fracWidth f) =
      (rneShift mag (droppedBits f mag) * 2 ^ droppedBits f mag : Nat) / 65536 := by
  have hexp :
      ((fracWidth f - mag.log2 : Nat) : ℤ) + ((mag.log2 : ℤ) - 16 - fracWidth f) = (droppedBits f mag : ℤ) - 16 := by
    rw [droppedBits]
    omega
  rw [keptSignificand_eq]
  push_cast
  rw [mul_assoc, ← zpow_natCast, ← zpow_add₀ two_ne_zero, hexp, zpow_sub₀ two_ne_zero, zpow_natCast, mul_div_assoc]
  norm_num

/-- In `f32` and `f64` even the smallest magnitude `2^-16` is normal. -/
theorem expMin_le_of_ne_f16 {f : FloatFormat} (hf : f ≠ .f16) : expMin f ≤ -16 := by
  cases f with
  | f16 => exact absurd rfl hf
  | f32 => decide
  | f64 => decide

/-- A subnormal result is exact; only `f16` has any (R93, D28). -/
theorem isRounding_subnormal {f : FloatFormat} {mag : Nat} (h0 : mag ≠ 0) (h : (mag.log2 : ℤ) - 16 < expMin f) :
    IsRounding f mag 0 (mag <<< ((fracWidth f : ℤ) - 16 - expMin f).toNat) := by
  obtain rfl : f = .f16 := by
    by_contra hf
    have := expMin_le_of_ne_f16 hf
    omega
  have hfw : fracWidth .f16 = 10 := rfl
  have hbias : expBias .f16 = 15 := rfl
  have hshift : ((fracWidth .f16 : ℤ) - 16 - expMin .f16).toNat = 8 := rfl
  have hp : mag.log2 < 2 := by
    have hemin : expMin .f16 = -14 := rfl
    omega
  have hmag : mag < 2 ^ 2 := (Nat.log2_lt h0).mp hp
  have hdrop : droppedBits .f16 mag = 0 := Nat.sub_eq_zero_of_le (hfw ▸ by omega)
  rw [hshift, Nat.shiftLeft_eq]
  refine ⟨by decide, by rw [hfw]; omega, fun hne => absurd rfl hne, ?_, fun hpos => absurd hdrop hpos.ne'⟩
  rw [hdrop, fieldsValue, if_pos rfl, hfw, hbias, rneShift_zero]
  push_cast
  ring

/-- A normal result is rounded once, and never past the largest exponent: at 31 the rounding cannot carry. -/
theorem isRounding_normal {f : FloatFormat} (neg : Bool) {mag : Nat} (h0 : mag ≠ 0) (hmag : mag ≤ 2 ^ 31)
    (h : expMin f ≤ (mag.log2 : ℤ) - 16) :
    ∃ E M : Nat, packNormal f neg ((mag.log2 : ℤ) - 16) (keptSignificand f mag mag.log2) = packFloat f neg E M ∧
      IsRounding f mag E M := by
  obtain ⟨-, -, hbias, -⟩ := floatFormat_ranges f
  obtain ⟨hlo, hhi⟩ := keptSignificand_bounds f h0
  have hp := log2_le_31 hmag
  have hcarry (hsig : keptSignificand f mag mag.log2 = 2 ^ (fracWidth f + 1)) : (mag.log2 : ℤ) - 16 < expBias f := by
    have hne : mag.log2 ≠ 31 := fun h31 => by
      rw [keptSignificand_of_log2_eq_31 f h0 hmag h31, pow_succ] at hsig
      have : 0 < 2 ^ fracWidth f := by positivity
      omega
    omega
  obtain ⟨E, M, hpack, hE0, hE, hM, hvalue, heven⟩ := packNormal_eq_packFloat neg h (by omega) hlo hhi hcarry
  refine ⟨E, M, hpack, hE, hM, fun _ => hE0, hvalue.trans (keptSignificand_mul_zpow f mag), fun hdrop hsig => heven ?_⟩
  rw [keptSignificand_eq, Nat.mul_mod, hsig, zero_mul, Nat.zero_mod]

/-- The result is the fields of the rounded magnitude under the sign of the operand (R93). -/
theorem toFloat_eq_packFloat (f : FloatFormat) {raw : Raw} (h : raw ≠ 0) :
    ∃ E M : Nat, toFloat f raw = packFloat f (raw.getLsbD 31) E M ∧ IsRounding f raw.toInt.natAbs E M := by
  have h0 := natAbs_toInt_ne_zero h
  have hneg : decide (raw.toInt < 0) = raw.getLsbD 31 := by
    rw [Bool.decide_congr (getLsbD_31_iff raw).symm, Bool.decide_eq_true]
  unfold toFloat
  dsimp only
  rw [if_neg (Int.natAbs_ne_zero.mp h0), hneg]
  split_ifs with hsub
  · exact ⟨0, _, rfl, isRounding_subnormal h0 hsub⟩
  · exact isRounding_normal _ h0 (natAbs_toInt_le raw) (not_lt.mp hsub)

theorem toFloat_zero (f : FloatFormat) : toFloat f 0 = 0 := by
  unfold toFloat
  exact if_pos rfl

/-- Zero is `+0` (R97). -/
theorem fval_zero (f : FloatFormat) : fval f 0 = some 0 := by
  have he : floatExp f 0 = 0 := by simp [floatExp]
  have hm : floatFrac f 0 = 0 := by simp [floatFrac]
  rw [fval_of_exp_zero he, hm]
  simp

/-- The value of a float extraction is the rounded operand (R92, R93). -/
theorem fval_toFloat (f : FloatFormat) (raw : Raw) : fval f (toFloat f raw) = some ((roundedSteps f raw : ℚ) / 65536) := by
  obtain rfl | h := eq_or_ne raw 0
  · rw [toFloat_zero, fval_zero, roundedSteps_of_droppedBits_zero (Nat.zero_sub _)]
    simp
  · obtain ⟨E, M, hpack, hround⟩ := toFloat_eq_packFloat f h
    rw [hpack, fval_packFloat hround.exp_lt hround.frac_lt, hround.value, roundedSteps,
      roundedUnits_eq_sign_mul, ← mul_div_assoc]
    split_ifs <;> push_cast <;> rw [mul_assoc]

/-! ### Class (R97) -/

/-- Rounding never takes a magnitude to zero. -/
theorem rneShift_droppedBits_ne_zero (f : FloatFormat) {mag : Nat} (h : mag ≠ 0) :
    rneShift mag (droppedBits f mag) ≠ 0 := by
  intro hzero
  have hlo := (keptSignificand_bounds f h).1
  rw [keptSignificand_eq, hzero, zero_mul] at hlo
  exact absurd hlo (Nat.not_le.mpr (by positivity))

theorem roundedSteps_eq_zero_iff (f : FloatFormat) (raw : Raw) : roundedSteps f raw = 0 ↔ raw = 0 := by
  constructor
  · intro h
    by_contra hne
    have hkept := rneShift_droppedBits_ne_zero f (natAbs_toInt_ne_zero hne)
    have hunits : roundedUnits f raw ≠ 0 := by
      rw [roundedUnits_eq_sign_mul]
      split_ifs <;> omega
    exact mul_ne_zero hunits (by positivity) h
  · rintro rfl
    exact roundedSteps_of_droppedBits_zero (Nat.zero_sub _)

/-- A pattern with a value is no NaN and no infinity. -/
theorem floatExp_lt_of_fval {f : FloatFormat} {x : BitVec (floatWidth f)} {v : ℚ} (h : fval f x = some v) :
    floatExp f x < 2 ^ expWidth f - 1 := by
  have hlt := floatExp_lt f x
  have hne : floatExp f x ≠ 2 ^ expWidth f - 1 := fun he => by
    by_cases hm : floatFrac f x = 0
    · simp [fval_of_infinity (classify_eq_infinity he hm)] at h
    · simp [fval_of_nan (classify_eq_nan he hm)] at h
  omega

theorem floatSign_toFloat (f : FloatFormat) (raw : Raw) : floatSign f (toFloat f raw) = raw.getLsbD 31 := by
  obtain rfl | h := eq_or_ne raw 0
  · rw [toFloat_zero]
    exact BitVec.getLsbD_zero.trans BitVec.getLsbD_zero.symm
  · obtain ⟨E, M, hpack, hround⟩ := toFloat_eq_packFloat f h
    rw [hpack, floatSign_packFloat hround.exp_lt_two_pow hround.frac_lt]

/-- In `f32` and `f64` nothing but zero gives a zero or a subnormal. -/
theorem floatExp_toFloat_ne_zero {f : FloatFormat} {raw : Raw} (hf : f ≠ .f16) (h : raw ≠ 0) :
    floatExp f (toFloat f raw) ≠ 0 := by
  obtain ⟨E, M, hpack, hround⟩ := toFloat_eq_packFloat f h
  rw [hpack, floatExp_packFloat hround.exp_lt_two_pow hround.frac_lt]
  exact hround.exp_ne_zero hf

/-- Settles O28: the sign is the operand's, the exponent field that of a pattern with a value, and the value is 0 only where
the rounded operand is. -/
theorem floatExtractionClass : Obligations.FloatExtractionClass := by
  intro f raw
  refine ⟨floatSign_toFloat f raw, floatExp_lt_of_fval (fval_toFloat f raw), floatExp_toFloat_ne_zero, ?_, toFloat_zero f⟩
  rw [fval_toFloat, Option.some_inj, div_eq_zero_iff, or_iff_left (by norm_num), Int.cast_eq_zero,
    roundedSteps_eq_zero_iff]

/-! ### Exactness (R98) -/

theorem roundedSteps_eq_toInt_iff (f : FloatFormat) (raw : Raw) :
    roundedSteps f raw = raw.toInt ↔ 2 ^ droppedBits f raw.toInt.natAbs ∣ raw.toInt.natAbs := by
  rw [← Int.natCast_dvd, roundedSteps, roundedUnits]
  generalize droppedBits f raw.toInt.natAbs = d
  push_cast
  constructor
  · intro h
    exact ⟨_, h.symm.trans (mul_comm _ _)⟩
  · rintro ⟨c, hc⟩
    have hquot : ((raw.toInt : ℚ) / 2 ^ d) = (c : ℤ) := by
      rw [hc]
      push_cast
      exact mul_div_cancel_left₀ _ (by positivity)
    rw [hquot, rneInt_intCast, hc, mul_comm]

/-- The extraction is exact when the rounding is. -/
theorem fval_toFloat_eq_real_iff (f : FloatFormat) (raw : Raw) :
    fval f (toFloat f raw) = some (real raw) ↔ roundedSteps f raw = raw.toInt := by
  rw [fval_toFloat, real, Option.some_inj, div_left_inj' (by norm_num), Int.cast_inj]

/-- The bits dropped are all 0 exactly when the magnitude has at most `fw + 1` significant bits. -/
theorem two_pow_droppedBits_dvd_iff (f : FloatFormat) (mag : Nat) :
    2 ^ droppedBits f mag ∣ mag ↔ ∃ m t : Nat, mag = m * 2 ^ t ∧ m < 2 ^ (fracWidth f + 1) := by
  constructor
  · rintro ⟨c, hc⟩
    refine ⟨c, droppedBits f mag, hc.trans (mul_comm _ _), ?_⟩
    have hhi : mag < 2 ^ droppedBits f mag * 2 ^ (fracWidth f + 1) := by
      rw [← pow_add]
      refine Nat.lt_log2_self.trans_le (Nat.pow_le_pow_right two_pos ?_)
      rw [droppedBits]
      omega
    exact Nat.lt_of_mul_lt_mul_left (hc.symm.trans_lt hhi)
  · rintro ⟨m, t, hmag, hm⟩
    obtain rfl | h0 := eq_or_ne mag 0
    · exact dvd_zero _
    · have hlt : 2 ^ mag.log2 < 2 ^ (fracWidth f + 1 + t) := by
        calc 2 ^ mag.log2 ≤ mag := Nat.log2_self_le h0
          _ = m * 2 ^ t := hmag
          _ < 2 ^ (fracWidth f + 1) * 2 ^ t := Nat.mul_lt_mul_of_pos_right hm (by positivity)
          _ = 2 ^ (fracWidth f + 1 + t) := (pow_add _ _ _).symm
      have hp := (Nat.pow_lt_pow_iff_right one_lt_two).mp hlt
      have hdrop : 2 ^ droppedBits f mag ∣ 2 ^ t := pow_dvd_pow 2 (by rw [droppedBits]; omega)
      exact hdrop.trans (Dvd.intro_left m hmag.symm)

/-- `f64` has room for all 32 bits. -/
theorem droppedBits_f64 (raw : Raw) : droppedBits .f64 raw.toInt.natAbs = 0 :=
  Nat.sub_eq_zero_of_le ((log2_le_31 (natAbs_toInt_le raw)).trans (by decide))

theorem fval_toFloat_f64 (raw : Raw) : fval .f64 (toFloat .f64 raw) = some (real raw) :=
  (fval_toFloat_eq_real_iff .f64 raw).mpr (roundedSteps_of_droppedBits_zero (droppedBits_f64 raw))

/-- Settles O29: the extraction is exact when the bits it drops are all 0. -/
theorem floatExtractionExactness : Obligations.FloatExtractionExactness := by
  refine ⟨fun f raw => ?_, fval_toFloat_f64⟩
  rw [fval_toFloat_eq_real_iff, roundedSteps_eq_toInt_iff, two_pow_droppedBits_dvd_iff]

/-! ### Round trip (R99) -/

/-- Construction takes the extracted pattern back to the rounded operand: its product with 65536 is an integer already. -/
theorem fromFloat_toFloat (f : FloatFormat) (raw : Raw) :
    fromFloat f (toFloat f raw) =
      if -2147483648 ≤ roundedSteps f raw ∧ roundedSteps f raw ≤ 2147483647 then
        okResponse (BitVec.ofInt 32 (roundedSteps f raw))
      else oorResponse (Config.oorRaw f ((toFloat f raw).setWidth 64)) := by
  rw [fromFloat_eq_roundedResponse, roundedResponse, fval_toFloat]
  simp only [div_mul_cancel₀ _ (by norm_num : (65536 : ℚ) ≠ 0), rneInt_intCast]
  rfl

theorem fromFloat_toFloat_eq_iff (f : FloatFormat) (raw : Raw) :
    fromFloat f (toFloat f raw) = okResponse raw ↔ roundedSteps f raw = raw.toInt := by
  rw [fromFloat_toFloat]
  constructor
  · intro h
    split_ifs at h with hfits
    · have hraw := (okResponse_dst_inj (by decide)).mp (congrArg Response.dst h)
      rw [← congrArg BitVec.toInt hraw, BitVec.toInt_ofInt_eq_self (by decide) hfits.1 (Int.lt_add_one_of_le hfits.2)]
    · exact absurd (congrArg Response.oor h) (by simp)
  · intro h
    rw [h, if_pos (toInt_range raw), BitVec.ofInt_toInt]

/-- The two commands of a format, one after the other over the bus. -/
theorem answerOf_fromFloat_toFloat (f : FloatFormat) (mode : IntPartMode) (src : Bus) :
    answerOf mode (fromFloatInstr f) (answerOf mode (toFloatInstr f) src).dst =
      fromFloat f (toFloat f (rawOf src)) := by
  rw [← rawOperand_eq_rawOf]
  cases f <;> exact congrArg (fromFloat _) (operand_okResponse (by decide) _)

/-- Settles O30: the word that comes back is the rounded operand. -/
theorem floatRoundTrip : Obligations.FloatRoundTrip := by
  intro f mode src
  have hiff : answerOf mode (fromFloatInstr f) (answerOf mode (toFloatInstr f) src).dst = okResponse (rawOf src) ↔
      fval f (toFloat f (rawOf src)) = some (real (rawOf src)) := by
    rw [answerOf_fromFloat_toFloat, fromFloat_toFloat_eq_iff, fval_toFloat_eq_real_iff]
  refine ⟨hiff, ?_⟩
  rintro rfl
  exact hiff.mpr (fval_toFloat_f64 _)

/-! ### Nearness (R92) -/

/-- `a` bits at the place `z` stay below every power of two from their top on. -/
theorem natCast_mul_zpow_lt {m a : Nat} {z c : ℤ} (hm : m < 2 ^ a) (h : (a : ℤ) + z ≤ c) : (m : ℚ) * 2 ^ z < 2 ^ c := by
  calc (m : ℚ) * 2 ^ z < 2 ^ (a : ℤ) * 2 ^ z := by
        gcongr
        exact_mod_cast hm
    _ = 2 ^ ((a : ℤ) + z) := (zpow_add₀ two_ne_zero _ _).symm
    _ ≤ 2 ^ c := zpow_le_zpow_right₀ one_le_two h

/-- From `2^e` on every magnitude of a format is a multiple of `2^(e - fw)`. -/
theorem fieldsValue_lt_or_multiple {f : FloatFormat} {E M : Nat} {e : ℤ} (hM : M < 2 ^ fracWidth f) (he : expMin f ≤ e) :
    fieldsValue f E M < 2 ^ e ∨ ∃ k : Nat, fieldsValue f E M = k * 2 ^ (e - fracWidth f) := by
  have hemin := (floatFormat_ranges f).1
  have hsig : 2 ^ fracWidth f + M < 2 ^ (fracWidth f + 1) := by
    rw [pow_succ]
    omega
  unfold fieldsValue
  split_ifs with hE
  · exact .inl (natCast_mul_zpow_lt hM (by omega))
  · obtain hlow | hhigh := lt_or_ge ((E : ℤ) - expBias f) e
    · exact .inl (natCast_mul_zpow_lt hsig (by push_cast; omega))
    · obtain ⟨j, hj⟩ := Int.eq_ofNat_of_zero_le (sub_nonneg.mpr hhigh)
      have hexp : (E : ℤ) - expBias f - fracWidth f = j + (e - fracWidth f) := by omega
      refine .inr ⟨(2 ^ fracWidth f + M) * 2 ^ j, ?_⟩
      rw [hexp, zpow_add₀ two_ne_zero, zpow_natCast, ← mul_assoc]
      push_cast
      rfl

theorem fieldsValue_nonneg (f : FloatFormat) (E M : Nat) : 0 ≤ fieldsValue f E M := by
  unfold fieldsValue
  split_ifs <;> positivity

/-- Every value of a format is below `2^e` in magnitude or a multiple of `2^(e - fw)`. -/
theorem fval_lt_or_multiple {f : FloatFormat} {y : BitVec (floatWidth f)} {w : ℚ} {e : ℤ} (hw : fval f y = some w)
    (he : expMin f ≤ e) : |w| < 2 ^ e ∨ ∃ k : ℤ, w = k * 2 ^ (e - fracWidth f) := by
  have hval := fval_of_exp_lt (floatExp_lt_of_fval hw).ne
  rw [hw, Option.some_inj, ← fieldsValue] at hval
  obtain hlt | ⟨k, hk⟩ := fieldsValue_lt_or_multiple (E := floatExp f y) (floatFrac_lt f y) he
  · refine .inl ?_
    rw [hval, abs_mul, abs_of_nonneg (fieldsValue_nonneg _ _ _)]
    split_ifs <;> simpa using hlt
  · refine .inr ⟨(if floatSign f y then -1 else 1) * k, ?_⟩
    rw [hval, hk]
    split_ifs <;> push_cast <;> ring

/-- The value of the lowest kept bit of the operand. -/
def lastPlace (f : FloatFormat) (raw : Raw) : ℚ := 2 ^ droppedBits f raw.toInt.natAbs / 65536

theorem lastPlace_pos (f : FloatFormat) (raw : Raw) : 0 < lastPlace f raw := by
  unfold lastPlace
  positivity

/-- Distances from the operand, counted in its lowest kept bit. -/
theorem mul_lastPlace_sub_real (f : FloatFormat) (raw : Raw) (k : ℤ) :
    |k * lastPlace f raw - real raw| = |k - (raw.toInt : ℚ) / 2 ^ droppedBits f raw.toInt.natAbs| * lastPlace f raw := by
  rw [← abs_of_pos (lastPlace_pos f raw), ← abs_mul, abs_of_pos (lastPlace_pos f raw), sub_mul, lastPlace, real,
    div_mul_div_cancel₀ (by positivity)]

theorem roundedSteps_div_eq (f : FloatFormat) (raw : Raw) :
    (roundedSteps f raw : ℚ) / 65536 = roundedUnits f raw * lastPlace f raw := by
  rw [roundedSteps, lastPlace, ← mul_div_assoc]
  push_cast
  rfl

/-- Among the multiples of the lowest kept bit the rounded operand is nearest, and even where another is equally near. -/
theorem roundedSteps_nearest_multiple (f : FloatFormat) (raw : Raw) (k : ℤ) :
    |(roundedSteps f raw : ℚ) / 65536 - real raw| ≤ |k * lastPlace f raw - real raw| ∧
      (|(roundedSteps f raw : ℚ) / 65536 - real raw| = |k * lastPlace f raw - real raw| →
        k * lastPlace f raw ≠ (roundedSteps f raw : ℚ) / 65536 → roundedUnits f raw % 2 = 0) := by
  have hpos := lastPlace_pos f raw
  obtain ⟨hle, heven⟩ := rneInt_nearest ((raw.toInt : ℚ) / 2 ^ droppedBits f raw.toInt.natAbs) k
  rw [roundedSteps_div_eq, mul_lastPlace_sub_real, mul_lastPlace_sub_real, mul_left_inj' hpos.ne']
  exact ⟨mul_le_mul_of_nonneg_right hle hpos.le, fun heq hne => heven heq fun hk => hne (hk ▸ rfl)⟩

/-- Where bits are dropped, the lowest kept bit is `fw` places below the highest. -/
theorem lastPlace_eq_zpow {f : FloatFormat} {raw : Raw} (h : 0 < droppedBits f raw.toInt.natAbs) :
    lastPlace f raw = 2 ^ ((raw.toInt.natAbs.log2 : ℤ) - 16 - fracWidth f) := by
  have hexp : (raw.toInt.natAbs.log2 : ℤ) - 16 - fracWidth f = (droppedBits f raw.toInt.natAbs : ℤ) - 16 := by
    rw [droppedBits] at h ⊢
    omega
  rw [hexp, zpow_sub₀ two_ne_zero, zpow_natCast, lastPlace]
  norm_num

/-- The operand is at least the power of two of its highest bit. -/
theorem zpow_log2_le_abs_real {raw : Raw} (h : raw ≠ 0) :
    (2 : ℚ) ^ ((raw.toInt.natAbs.log2 : ℤ) - 16) ≤ |real raw| := by
  have hlo : ((2 ^ raw.toInt.natAbs.log2 : Nat) : ℚ) ≤ raw.toInt.natAbs :=
    mod_cast Nat.log2_self_le (natAbs_toInt_ne_zero h)
  rw [Nat.cast_natAbs, Int.cast_abs] at hlo
  rw [real, abs_div, zpow_sub₀ two_ne_zero, zpow_natCast]
  norm_num at hlo ⊢
  linarith

/-- A value below the operand's power of two is farther away than that power, which is a multiple of the lowest kept bit. -/
theorem roundedSteps_nearer_of_lt {f : FloatFormat} {raw : Raw} (h : 0 < droppedBits f raw.toInt.natAbs) {w : ℚ}
    (hw : |w| < 2 ^ ((raw.toInt.natAbs.log2 : ℤ) - 16)) :
    |(roundedSteps f raw : ℚ) / 65536 - real raw| < |w - real raw| := by
  have htop := zpow_log2_le_abs_real (ne_zero_of_droppedBits_pos h)
  have hpow : ((2 ^ fracWidth f : ℤ) : ℚ) * lastPlace f raw = 2 ^ ((raw.toInt.natAbs.log2 : ℤ) - 16) := by
    rw [lastPlace_eq_zpow h, Int.cast_pow, Int.cast_ofNat, ← zpow_natCast, ← zpow_add₀ two_ne_zero, add_sub_cancel]
  have hpos := (roundedSteps_nearest_multiple f raw (2 ^ fracWidth f)).1
  have hneg := (roundedSteps_nearest_multiple f raw (-2 ^ fracWidth f)).1
  have hfar : |real raw| ≤ |w - real raw| + |w| := by
    simpa [abs_sub_comm] using abs_sub_abs_le_abs_sub (real raw) w
  rw [hpow] at hpos
  rw [Int.cast_neg, neg_mul, hpow] at hneg
  generalize (2 : ℚ) ^ ((raw.toInt.natAbs.log2 : ℤ) - 16) = top at *
  obtain hsign | hsign := le_total 0 (real raw)
  · rw [abs_of_nonneg hsign] at htop hfar
    rw [abs_of_nonpos (a := top - real raw) (by linarith)] at hpos
    linarith
  · rw [abs_of_nonpos hsign] at htop hfar
    rw [abs_of_nonneg (a := -top - real raw) (by linarith)] at hneg
    linarith

/-- Where bits are dropped, an even rounded significand is an even fraction field. -/
theorem floatFrac_toFloat_even {f : FloatFormat} {raw : Raw} (h : 0 < droppedBits f raw.toInt.natAbs)
    (heven : roundedUnits f raw % 2 = 0) : floatFrac f (toFloat f raw) % 2 = 0 := by
  obtain ⟨E, M, hpack, hround⟩ := toFloat_eq_packFloat f (ne_zero_of_droppedBits_pos h)
  rw [hpack, floatFrac_packFloat hround.exp_lt_two_pow hround.frac_lt]
  refine hround.frac_even h ?_
  rw [roundedUnits_eq_sign_mul] at heven
  split_ifs at heven <;> omega

/-- The engine delivers the nearest pattern: where no bit is dropped, the operand itself; else every other value is a multiple
of the lowest kept bit or lies below the operand's power of two. -/
theorem nearestEven_toFloat (f : FloatFormat) (raw : Raw) : NearestEven f raw (toFloat f raw) := by
  refine ⟨fun h => h ▸ toFloat_zero f, _, fval_toFloat f raw, fun y w hw => ?_⟩
  obtain hd | hd := Nat.eq_zero_or_pos (droppedBits f raw.toInt.natAbs)
  · have hexact : (roundedSteps f raw : ℚ) / 65536 = real raw := by
      rw [roundedSteps_of_droppedBits_zero hd, real]
    rw [hexact, sub_self, abs_zero]
    exact ⟨abs_nonneg _, fun heq hne => absurd (sub_eq_zero.mp (abs_eq_zero.mp heq.symm)) hne⟩
  · have hmin : expMin f ≤ (raw.toInt.natAbs.log2 : ℤ) - 16 := by
      obtain ⟨hemin, -, hbias, hfw⟩ := floatFormat_ranges f
      rw [droppedBits] at hd
      omega
    obtain hlt | ⟨k, hk⟩ := fval_lt_or_multiple hw hmin
    · have hnear := roundedSteps_nearer_of_lt hd hlt
      exact ⟨hnear.le, fun heq => absurd heq hnear.ne⟩
    · rw [← lastPlace_eq_zpow hd] at hk
      obtain ⟨hle, heven⟩ := roundedSteps_nearest_multiple f raw k
      rw [hk]
      exact ⟨hle, fun heq hne => floatFrac_toFloat_even hd (heven heq hne)⟩

/-- Settles O27: the pattern is the engine's, whatever the mode. -/
theorem floatExtractionNearest : Obligations.FloatExtractionNearest := by
  intro f
  refine ⟨toFloat f, ?_, nearestEven_toFloat f⟩
  have hresponse (src : Bus) : okResponse (toFloat f (rawOperand src)) = okResponse (toFloat f (rawOf src)) := by
    rw [rawOperand_eq_rawOf]
  cases f <;> exact answers_of_answerOf rfl fun _ => hresponse

/-! ### Monotonicity (R100) -/

/-- Of two operands the smaller cannot have the greater nearest value: both would lie on the wrong side of the midpoint. -/
theorem NearestEven.mono {f : FloatFormat} {a b : Raw} {x y : BitVec (floatWidth f)} {v w : ℚ}
    (hx : NearestEven f a x) (hy : NearestEven f b y) (hv : fval f x = some v) (hw : fval f y = some w)
    (hlt : real a < real b) : v ≤ w := by
  obtain ⟨-, v', hv', hnear_a⟩ := hx
  obtain ⟨-, w', hw', hnear_b⟩ := hy
  obtain rfl : v' = v := Option.some_inj.mp (hv'.symm.trans hv)
  obtain rfl : w' = w := Option.some_inj.mp (hw'.symm.trans hw)
  have ha := (hnear_a y w' hw).1
  have hb := (hnear_b x v' hv).1
  by_contra! hgt
  have hsq_a := sq_le_sq.mpr ha
  have hsq_b := sq_le_sq.mpr hb
  have hprod : 0 < (v' - w') * (real b - real a) := mul_pos (sub_pos.mpr hgt) (sub_pos.mpr hlt)
  linarith

/-- Settles O31: two distinct operands have their nearest values in order, and in `f64` the values are the operands'. -/
theorem floatExtractionMonotone : Obligations.FloatExtractionMonotone := by
  intro f a b hab
  obtain heq | hlt := hab.eq_or_lt
  · obtain rfl := BitVec.toInt_inj.mp heq
    exact ⟨_, _, fval_toFloat f a, fval_toFloat f a, le_rfl, fun _ h => absurd h (lt_irrefl _)⟩
  · have hreal := real_lt_real_iff.mpr hlt
    refine ⟨_, _, fval_toFloat f a, fval_toFloat f b,
      (nearestEven_toFloat f a).mono (nearestEven_toFloat f b) (fval_toFloat f a) (fval_toFloat f b) hreal, ?_⟩
    rintro rfl -
    rwa [roundedSteps_of_droppedBits_zero (droppedBits_f64 a), roundedSteps_of_droppedBits_zero (droppedBits_f64 b)]

end Sys2Proof.Machine
end

section
/-! PROOFS. The family of 44_dispatch.md: dispatch by a type token (R101, R102, R108), the commands that are no conversion
(R103 to R107), and the decimal digits of a real value (R109). -/

namespace Sys2Proof.Machine

open Sys2Proof

/-! ### The decimal digits of a real value (R109) -/

/-- `SCALE = 2^16` divides `10^16`, and `5^16` is left. -/
theorem real_mul_ten_pow_16 (raw : Raw) : real raw * 10 ^ 16 = (raw.toInt * 5 ^ 16 : ℤ) := by
  rw [real, Int.cast_mul]
  norm_num
  ring

/-- Settles O34: the integer is `s(raw) * 5^16`, and `2^31 * 5^16` is below `10^21`. -/
theorem realIsShortDecimal : Obligations.RealIsShortDecimal := by
  intro raw
  refine ⟨raw.toInt * 5 ^ 16, real_mul_ten_pow_16 raw, ?_⟩
  have hrange := toInt_range raw
  rw [abs_lt]
  omega

/-! ### The commands that are no conversion (R103 to R107) -/

/-- Settles O10: both directions of the absent token answer one error, whatever the mode and the operand. -/
theorem absentTokenAnswers : Obligations.AbsentTokenAnswers :=
  ⟨answers_of_answerOf rfl fun _ _ => rfl, answers_of_answerOf rfl fun _ _ => rfl⟩

/-- Settles O11: the three targets that are not built answer one error, whatever the mode and the operand. -/
theorem unbuiltTargetsAnswer : Obligations.UnbuiltTargetsAnswer :=
  ⟨answers_of_answerOf rfl fun _ _ => rfl, answers_of_answerOf rfl fun _ _ => rfl, answers_of_answerOf rfl fun _ _ => rfl⟩

/-- The row `1xxxxxxx` admits the bytes from `0x80` on (R40). -/
theorem wellFormed_reservedRsv1_iff {b : Byte} : (Instr.reservedRsv1 b).wellFormed = true ↔ 0x80 ≤ b.toNat := by
  revert b
  decide

/-- The row `01xxxxxx` admits the bytes from `0x40` to `0x7F` (R40). -/
theorem wellFormed_reservedRsv01_iff {b : Byte} :
    (Instr.reservedRsv01 b).wellFormed = true ↔ 0x40 ≤ b.toNat ∧ b.toNat < 0x80 := by
  revert b
  decide

/-- The row `001xxxxx` admits the bytes from `0x20` to `0x3F` (R40). -/
theorem wellFormed_reservedRsv001_iff {b : Byte} :
    (Instr.reservedRsv001 b).wellFormed = true ↔ 0x20 ≤ b.toNat ∧ b.toNat < 0x40 := by
  revert b
  decide

/-- Settles O12: a byte in the range of a row with open bits is the encoding of that row's command, and every reserved row
answers one error. -/
theorem reservedBytesAnswer : Obligations.ReservedBytesAnswer := by
  refine ⟨answers_of_answerOf rfl fun _ _ => rfl, answers_of_answerOf rfl fun _ _ => rfl,
    answers_of_answerOf rfl fun _ _ => rfl, fun b hlo => ?_, fun b hlo hhi => ?_, fun b hlo hhi => ?_⟩
  · have hdecode := decodeByte_encodeByte (wellFormed_reservedRsv1_iff.mpr hlo)
    exact answers_of_answerOf hdecode fun _ _ => rfl
  · have hdecode := decodeByte_encodeByte (wellFormed_reservedRsv01_iff.mpr ⟨hlo, hhi⟩)
    exact answers_of_answerOf hdecode fun _ _ => rfl
  · have hdecode := decodeByte_encodeByte (wellFormed_reservedRsv001_iff.mpr ⟨hlo, hhi⟩)
    exact answers_of_answerOf hdecode fun _ _ => rfl

/-! ### Dispatch by a type token (R101, R102, R108) -/

/-- The dispatcher is the decoder: every token, the two error tokens among them, answers by its `DIR = 1` command (R102). -/
theorem convertTo_eq_answerOf_decodeTo (mode : IntPartMode) (t : TypeToken) (raw : Raw) :
    convertTo mode t raw = answerOf mode (decodeTo t) (raw.setWidth 64) := by
  rw [convertTo, execCommand, aliasByte_convertTo, decodeByte_commandByte, if_pos rfl]

/-- Settles O13: the typed command of the absent token is `to_null`, that of the unassigned one a reserved row. -/
theorem dispatchAgreesWithTyped : Obligations.DispatchAgreesWithTyped := by
  intro mode raw
  refine ⟨fun t _ _ => convertTo_eq_answerOf_decodeTo mode t raw, ?_, ?_⟩
  · rw [convertTo_eq_answerOf_decodeTo]
    rfl
  · rw [convertTo_eq_answerOf_decodeTo]
    rfl

end Sys2Proof.Machine
end

section
/-! PROOFS. The family of 60_exceptions.md: the status of a response is decided by the command byte (R113 to R118), and every
state goes on, errors being responses like any other (R120, R124). -/

namespace Sys2Proof.Machine

open Sys2Proof

/-! ### The status of every byte (R113 to R118) -/

/-- The status a command answers with, whatever the mode and the operand; see `answerOf_status`. -/
def statusOf : Instr → Status
  | .fromBool | .fromI8 | .fromU8 | .fromI16 | .fromU16 | .fromI32 | .fromU32 | .fromI64 | .fromU64
  | .fromF16 | .fromF32 | .fromF64
  | .toBool | .toI8 | .toU8 | .toI16 | .toU16 | .toI32 | .toU32 | .toI64 | .toU64
  | .toF16 | .toF32 | .toF64 => .ok
  | .fromNull | .toNull => .invalidArgument
  | .fromDec | .toDec | .toStr => .unimplemented
  | .reserved0E | .reserved0F | .reserved1F | .reservedRsv1 _ | .reservedRsv01 _ | .reservedRsv001 _ => .invalidCast

/-- A float construction answers `OK` on either side of the boundary guard (R73). -/
@[simp] theorem fromFloat_status (f : FloatFormat) (x : BitVec (floatWidth f)) : (fromFloat f x).status = .ok := by
  obtain ⟨v, h⟩ | ⟨raw, h⟩ := fromFloat_cases f x <;> rw [h]
  · exact okResponse_status v
  · exact oorResponse_status raw

/-- No operand and no mode enters the choice of the status (R117). -/
theorem answerOf_status (mode : IntPartMode) (i : Instr) (src : Bus) : (answerOf mode i src).status = statusOf i := by
  cases i
  case fromF16 | fromF32 | fromF64 => exact fromFloat_status _ _
  all_goals rfl

/-- Every row with open bits is a reserved row (R107). -/
theorem statusOf_decodeReserved (b : Byte) : statusOf (decodeReserved b) = .invalidCast := by
  obtain h | h | h := decodeReserved_cases b <;> rw [h] <;> rfl

/-- Settles O9: the status is that of the decoded command; a byte with `RSV != 000` is reserved, and the bytes with
`RSV = 000` run through both columns of R39. -/
theorem statusOfEveryByte : Obligations.StatusOfEveryByte := by
  intro mode b src
  rw [execCommand, answerOf_status]
  change (statusOf (decodeByte b)).code = if cmdRsv b ≠ 0 then 2 else _
  obtain ⟨dir, t, rfl⟩ | hrsv := eq_commandByte_or_rsv_ne_zero b
  · cases dir <;> cases t <;> decide
  · rw [if_pos hrsv, decodeByte_of_rsv_ne_zero hrsv, statusOf_decodeReserved]
    rfl

/-! ### No state stops the block (R24 (a), R120, R124) -/

/-- Without an edge to come the block stays as it is (log 8). -/
theorem step_of_no_edge {s : State} (he : s.edges = []) : step s = .next s := by
  simp [step, nextEdge, he]

/-- At an edge at which the host holds its request the step answers a next state: reset does, and so does the response
channel, whatever the oldest command is. -/
theorem exists_step_next_of_held {s : State} {e : Edge} {es : List Edge} (he : s.edges = e :: es)
    (hheld : s.requestHeld e = true) : ∃ t, step s = .next t := by
  rw [step_of_held he hheld]
  split
  · exact ⟨_, rfl⟩
  · rw [responseChannel_eq_next]
    exact ⟨_, rfl⟩

/-- A request that is not held waits at the port and is not presented again. -/
theorem requestHeld_eq_false_iff {s : State} {e : Edge} :
    s.requestHeld e = false ↔ ∃ c, s.waiting = some c ∧ e.req ≠ some c := by
  rw [← Bool.not_eq_true, requestHeld_iff]
  push Not
  rfl

/-- Settles O44: without an edge the block stays, at an edge with the request held it goes on, and otherwise the step
refuses. -/
theorem blockNeverStops : Obligations.BlockNeverStops := by
  intro s
  cases he : s.edges with
  | nil => exact .inl ⟨s, step_of_no_edge he⟩
  | cons e es =>
    cases hheld : s.requestHeld e with
    | true => exact .inl (exists_step_next_of_held he hheld)
    | false =>
      obtain ⟨c, hw, hreq⟩ := requestHeld_eq_false_iff.mp hheld
      exact .inr ⟨e, es, c, rfl, hw, hreq, step_of_not_held he hheld⟩

end Sys2Proof.Machine
end

section
/-! PROOFS. The family of 70_reset_and_hazards.md: reset (R125 to R128), backpressure (R132), what a run observes (R133), and
that a command in flight can always be answered (R135). -/

namespace Sys2Proof.Machine

open Sys2Proof

/-! ### Runs -/

/-- A run whose first step answers a next state goes on from that state. -/
theorem run_succ_of_step {s t : State} (h : step s = .next t) (k : Nat) :
    Host.Core.run core (k + 1) s = Host.Core.run core k t := by
  have hcore : core.step s = .next t := h
  simp only [Host.Core.run, hcore]

/-- A run that answers a state after one step more has a first step that answers a next state. -/
theorem exists_step_of_run_succ {s t : State} {k : Nat} (h : Host.Core.run core (k + 1) s = .next t) :
    ∃ u, step s = .next u ∧ Host.Core.run core k u = .next t := by
  have hcore : core.step s = step s := rfl
  cases hstep : step s with
  | next u => exact ⟨u, rfl, run_succ_of_step hstep k ▸ h⟩
  | fault r | refused r => simp [Host.Core.run, hcore, hstep] at h

/-- What every step keeps, every run keeps. -/
theorem run_keeps {P : State → Prop} (hstep : ∀ s t : State, P s → step s = .next t → P t) :
    ∀ (k : Nat) {s t : State}, P s → Host.Core.run core k s = .next t → P t
  | 0, _, _, hs, h => by
    injection h with h
    exact h ▸ hs
  | k + 1, _, _, hs, h => by
    obtain ⟨u, hu, hrun⟩ := exists_step_of_run_succ h
    exact run_keeps hstep k (hstep _ u hs hu) hrun

/-! ### The observation of a run (R127, R133) -/

/-- In order and with `Q` empty, the accepted commands are those answered. -/
theorem State.inOrder.delivered_of_queue_nil {s : State} (h : s.inOrder) (hq : s.queue = []) :
    s.delivered = s.accepted.map (execCommand s.intPartMode) := by
  obtain ⟨done, hacc, hdel⟩ := h
  rw [hdel, hacc, hq, List.append_nil]

/-- No run changes the mode (R6, R26). -/
theorem run_intPartMode {k : Nat} {s t : State} (h : Host.Core.run core k s = .next t) : t.intPartMode = s.intPartMode :=
  run_keeps (P := fun u => u.intPartMode = s.intPartMode)
    (fun u v hu hstep => (parametersNeverChange u v hstep).1.trans hu) k rfl h

/-- Settles O54: every step keeps the order invariant, so a run does, and the mode `Exec` is taken in stays. -/
theorem runObservesExec : Obligations.RunObservesExec := by
  intro k s t hs hrun
  have hord : t.inOrder := run_keeps stepKeepsInOrder k hs hrun
  exact ⟨hord, fun hq => run_intPartMode hrun ▸ hord.delivered_of_queue_nil hq⟩

/-- Settles O52: at reset nothing has been answered and nothing is in flight. -/
theorem resetInOrder : Obligations.ResetInOrder := ⟨[], rfl, rfl⟩

/-! ### Every command in flight is answered (R135) -/

/-- Settles O46, by induction on `Q`: each edge delivers the oldest entry's response and leaves the rest to the edges after
it. -/
theorem drainAnswersEveryCommand : Obligations.DrainAnswersEveryCommand := by
  intro s es hw he
  induction hq : s.queue generalizing s with
  | nil => exact ⟨s, rfl, hq, by simpa [hq] using he, rfl, by simp⟩
  | cons c rest ih =>
    rw [hq, List.length_cons, List.replicate_succ, List.cons_append] at he
    have hstep := respondDeliversOldest s _ c rest he hq hw
    obtain ⟨t, hrun, hempty, hedges, hacc, hdel⟩ :=
      ih { s.answered rest (execCommand s.intPartMode c) with
        waiting := none, edges := List.replicate rest.length ⟨false, none, true, true⟩ ++ es } rfl rfl rfl
    refine ⟨t, (run_succ_of_step hstep rest.length).trans hrun, hempty, hedges, hacc, ?_⟩
    simpa using hdel

/-- Settles O45: the edge that takes the oldest entry's response and holds the request that waits. -/
theorem responseAlwaysEnabled : Obligations.ResponseAlwaysEnabled := by
  intro s hq
  obtain ⟨c, rest, hcons⟩ := List.exists_cons_of_ne_nil hq
  refine ⟨takeEdge s.waiting, _, edgeMovesBothChannels _ _ [] rfl rfl fun _ hw => hw, rfl, rfl, ?_⟩
  simp [takeEdge, hcons]

/-! ### Backpressure (R132) -/

/-- Settles O47: the request channel goes by the readiness from before the edge, and a queue that was full, with a depth of at
least 1, has room without its oldest entry. -/
theorem backpressureReleases : Obligations.BackpressureReleases := by
  intro s t e es ⟨hdepth, _, _⟩ he hfull hrst h
  have hheld := requestHeld_iff.mp (requestHeld_of_step_next he h)
  have hnoRoom : ¬s.queue.length < s.depth := hfull.not_lt
  rw [edgeMovesBothChannels s e es he hrst hheld, Host.Outcome.next.injEq] at h
  subst h
  refine ⟨by simp [hnoRoom], fun hp hr => reqReady_iff.mpr ⟨?_, rfl⟩⟩
  simp only [hp, hr, hnoRoom, Bool.and_self, if_true, if_false, List.append_nil, List.length_tail]
  omega

/-! ### Reset (R125 to R128) -/

/-- Settles O39: reset takes the place of the response transfer, and with `req_ready = 0` what the host presents waits. -/
theorem resetDropsEverything : Obligations.ResetDropsEverything := by
  intro s e es he hrst hheld
  rw [step_of_held he (requestHeld_iff.mpr hheld), hrst, if_pos rfl, onNext_of_next, Host.Outcome.next.injEq]
  apply State.eq_of_fields <;> simp [State.reset, State.reqReady]

/-- Settles O40: an empty `Q` has room, the depth being a successor, and has no oldest entry whose response could be
presented. -/
theorem resetState : Obligations.ResetState := by
  have hdepth : 1 ≤ State.reset.depth := Nat.succ_pos _
  have hvalid (e : Edge) : State.reset.rspValid e = false := rfl
  exact ⟨rfl, rfl, reqReady_iff.mpr ⟨hdepth, rfl⟩, fun e => ⟨hvalid e, rspOut_of_not_rspValid (hvalid e)⟩, rfl, hdepth⟩

end Sys2Proof.Machine
end
